-- ==== Sys2Proof/Word.lean ====
section
/-! DEFINITION. The words of the ConverterDriver block: the bus byte, the command word, and the
registers of the fixed-point decoder. Bit 0 is the least significant bit of every value (R8). -/

namespace Sys2Proof

/-- One register of the chip and one byte on the bus: `DATA_W` = `ADDR_W` = 8 (R7, R8). -/
abbrev Byte := BitVec 8

/-- The command word `CW`, 19 bits: `op` 18:16, `A` 15:8, `B` 7:0 (R71). -/
abbrev CommandWord := BitVec 19

/-- `ACC`, 24 bits unsigned (R29). -/
abbrev AccWord := BitVec 24

/-- `VAL`, 19 bits two's complement (R29, R33). -/
abbrev ValWord := BitVec 19

end Sys2Proof
end

