-- ==== Sys2Proof/Config.lean ====
section
/-! DEFINITION. What an implementation fixes and what the spec leaves open: the three closed
enumerations chosen at construction (R23, R74), the OPEN parameters of R7 as constants with no
body, the opaque values the transport hands over (`XRES`, `XERR`), and the free values. Nothing
can be proved of a constant without a body beyond its type, so a theorem about the model holds for
every choice of it. -/

namespace Sys2Proof

/-- Thermocouple type, "8 variants: B,E,J,K,N,R,S,T" in that order (R23, R74). -/
inductive ThermoType where
  | typeB | typeE | typeJ | typeK | typeN | typeR | typeS | typeT
  deriving DecidableEq, Repr, Inhabited

/-- Conversion mode, "one-shot vs continuous" in that order (R23, R74). -/
inductive ConvMode where
  | oneShot | continuous
  deriving DecidableEq, Repr, Inhabited

/-- Averaging selection, "1/2/4/8/16 samples" in that order (R23, R74). -/
inductive Averaging where
  | samples1 | samples2 | samples4 | samples8 | samples16
  deriving DecidableEq, Repr, Inhabited

/-- `XRES`: the value a transport write returns. The block only passes it through (R7, R28), so it
is held as a token that nothing inspects. DESIGN CHOICE, assumption log 8. -/
structure XRes where
  token : Nat
  deriving DecidableEq, Repr, Inhabited

/-- `XERR`: the value a failing transport call reports, "Propagated unchanged" (R7, R28). A token
that nothing inspects. DESIGN CHOICE, assumption log 8. -/
structure XErr where
  token : Nat
  deriving DecidableEq, Repr, Inhabited

/-- What the environment gives to one transport call (R60): an answer OK, an answer FAIL, or no
answer ever. In `ok res bytes` the result `res` is what a write returns, and `bytes` are the bytes
a read delivers; a read asks for exactly `k` bytes (R10), and where `bytes` lists fewer, the rest
come from what stands behind the transport. -/
inductive Reply where
  | ok (res : XRes) (bytes : List Byte)
  | fail (err : XErr)
  | never
  deriving DecidableEq, Repr, Inhabited

/-- `CR0_CODE(mode)`: OPEN parameter, an uninterpreted function of the mode (R7, R79). -/
opaque Config.cr0Code : ConvMode → Byte

/-- `TC_CODE(tc)`: OPEN parameter, the 4-bit code in CR1 bits 3:0 (R7, R80). -/
opaque Config.tcCode : ThermoType → BitVec 4

/-- `AVG_CODE(avg)`: OPEN parameter, the 4-bit code in CR1 bits 7:4 (R7, R80). -/
opaque Config.avgCode : Averaging → BitVec 4

/-- What fixes the OPEN parameter `MAX_LEN`; see `Config.maxLen`. -/
opaque Config.maxLenSeed : Nat

/-- `MAX_LEN`: the largest RDREGS length and the size of `RXBUF`, OPEN, "must be at least 3 and at
most 255" (R7). As the seed runs over the numbers, this runs over exactly 3, …, 255. -/
def Config.maxLen : Nat := Config.maxLenSeed % 253 + 3

/-- The oracle (R60): the reply to the transport call made at draw number `t`, where the state lists
no reply for it. A free value. -/
opaque Config.oracle : Nat → Reply

/-- The free values (R20, R22, U2 to U9): `Config.free t i` is the `i`-th value of draw `t`. Each
occurrence of an unspecified value takes a draw number of its own from `State.tick`. -/
opaque Config.free : Nat → Nat → Nat

/-- The contents of the chip's register `k` at the block's reset: "unknown values" (R62, R185, U4). A
free value. -/
opaque Config.powerOn : Nat → Byte

/-- A free byte. -/
def Config.freeByte (t i : Nat) : Byte := BitVec.ofNat 8 (Config.free t i)

end Sys2Proof
end

