-- ==== Sys2Proof/Syntax.lean ====
section
/-! DEFINITION. The commands of the block (R72, R73), one constructor per row of the opcode table,
and the reasons for which a command is refused (R168). -/

namespace Sys2Proof

/-- A command, with the operands of R73. The INIT selectors are members of the three closed
enumerations; addresses, length and value are the bytes of the word, used as they stand. -/
inductive Instr where
  /-- INIT `tc, mode, avg`: construction (R100). -/
  | init (tc : ThermoType) (mode : ConvMode) (avg : Averaging)
  /-- RDREGS `addr, len` (R114). -/
  | rdregs (addr len : Byte)
  /-- WRREG `addr, val` (R115). -/
  | wrreg (addr val : Byte)
  /-- RDCJ (R130). -/
  | rdcj
  /-- RDTC (R131). -/
  | rdtc
  /-- RDFLT (R132). -/
  | rdflt
  deriving DecidableEq, Repr

/-- The refusal reasons, in the order in which they are checked (R168). -/
inductive Reason where
  | badOp | badField | badSelector | badAddress | badLength | notConfigured | alreadyConfigured
  deriving DecidableEq, Repr

end Sys2Proof
end

