-- ==== Sys2Proof/WellFormed.lean ====
section
/-! DEFINITION. Which commands are legal: the operand ranges of R73 that the types of `Instr` do not
already hold. -/

namespace Sys2Proof

/-- The operands are in the ranges of R73: RDREGS `addr` in `RADDR` = 0x00 to 0x0F and `len` 1 to
`MAX_LEN`; WRREG `addr` in `WADDR` = 0x80 to 0x89, `val` any byte (R44). -/
def Instr.wellFormed : Instr → Bool
  | .init _ _ _ => true
  | .rdregs addr len =>
    decide (addr.toNat ≤ 0x0F) && (decide (1 ≤ len.toNat) && decide (len.toNat ≤ Config.maxLen))
  | .wrreg addr _ => decide (0x80 ≤ addr.toNat) && decide (addr.toNat ≤ 0x89)
  | .rdcj => true
  | .rdtc => true
  | .rdflt => true

end Sys2Proof
end

