-- ==== Sys2Proof/Decode.lean ====
section
/-! DEFINITION. The command word (R71 to R75): fields, operation codes, selectors, the decoder with
its refusals by name, and the encoder. -/

namespace Sys2Proof

/-! ## Fields and codes -/

/-- `CW[18:16]` (R71). -/
def opField (w : CommandWord) : BitVec 3 := w.extractLsb' 16 3

/-- `CW[15:8]`, the first operand `A` (R71). -/
def aField (w : CommandWord) : Byte := w.extractLsb' 8 8

/-- `CW[7:0]`, the second operand `B` (R71). -/
def bField (w : CommandWord) : Byte := w.extractLsb' 0 8

/-- The word `{op, A, B}` (R71). -/
def joinFields (op : BitVec 3) (a b : Byte) : CommandWord := (op ++ a) ++ b

/-- The operation code of a command (R72). -/
def opcode : Instr → BitVec 3
  | .init _ _ _ => 0b001#3
  | .rdregs _ _ => 0b010#3
  | .wrreg _ _ => 0b011#3
  | .rdcj => 0b100#3
  | .rdtc => 0b101#3
  | .rdflt => 0b110#3

/-! ## Selectors: the position of a member in the listing, counted from 0 (R74) -/

def ThermoType.selector : ThermoType → BitVec 4
  | .typeB => 0 | .typeE => 1 | .typeJ => 2 | .typeK => 3
  | .typeN => 4 | .typeR => 5 | .typeS => 6 | .typeT => 7

def ThermoType.ofSelector (v : BitVec 4) : Option ThermoType :=
  match v.toNat with
  | 0 => some .typeB | 1 => some .typeE | 2 => some .typeJ | 3 => some .typeK
  | 4 => some .typeN | 5 => some .typeR | 6 => some .typeS | 7 => some .typeT
  | _ => none

def ConvMode.selector : ConvMode → BitVec 1
  | .oneShot => 0 | .continuous => 1

def ConvMode.ofSelector (v : BitVec 1) : ConvMode :=
  if v = 0 then .oneShot else .continuous

def Averaging.selector : Averaging → BitVec 4
  | .samples1 => 0 | .samples2 => 1 | .samples4 => 2 | .samples8 => 3 | .samples16 => 4

def Averaging.ofSelector (v : BitVec 4) : Option Averaging :=
  match v.toNat with
  | 0 => some .samples1 | 1 => some .samples2 | 2 => some .samples4 | 3 => some .samples8
  | 4 => some .samples16
  | _ => none

/-! ## Decoding -/

/-- The INIT row of R73: `A[7:1]` must be 0 (BAD_FIELD), then both selectors must be legal
(BAD_SELECTOR), in the order of R168. -/
def decodeInit (a b : Byte) : Except Reason Instr :=
  if a.extractLsb' 1 7 ≠ 0 then .error .badField
  else
    match Averaging.ofSelector (b.extractLsb' 4 4), ThermoType.ofSelector (b.extractLsb' 0 4) with
    | some avg, some tc => .ok (.init tc (ConvMode.ofSelector (a.extractLsb' 0 1)) avg)
    | _, _ => .error .badSelector

/-- A command without operands: every bit of `A` and `B` must be 0 (R73, BAD_FIELD). -/
def decodeBare (a b : Byte) (i : Instr) : Except Reason Instr :=
  if a = 0 ∧ b = 0 then .ok i else .error .badField

/-- The decoder, total on all words, refusing by the first reason of R168 that applies among BAD_OP,
BAD_FIELD, BAD_SELECTOR and BAD_ADDRESS. The length of RDREGS is checked against the parameter
`MAX_LEN` after decoding, by the command itself (`Machine.illegalReason`), which is next in the
order of R168. DESIGN CHOICE, assumption log 13. -/
def decode (w : CommandWord) : Except Reason Instr :=
  match (opField w).toNat with
  | 1 => decodeInit (aField w) (bField w)
  | 2 => if (aField w).toNat ≤ 0x0F then .ok (.rdregs (aField w) (bField w)) else .error .badAddress
  | 3 =>
    if 0x80 ≤ (aField w).toNat ∧ (aField w).toNat ≤ 0x89 then .ok (.wrreg (aField w) (bField w))
    else .error .badAddress
  | 4 => decodeBare (aField w) (bField w) .rdcj
  | 5 => decodeBare (aField w) (bField w) .rdtc
  | 6 => decodeBare (aField w) (bField w) .rdflt
  | _ => .error .badOp

/-! ## Encoding -/

/-- Operand field `A` of a command (R73). -/
def encodeA : Instr → Byte
  | .init _ mode _ => (0 : BitVec 7) ++ mode.selector
  | .rdregs addr _ => addr
  | .wrreg addr _ => addr
  | .rdcj => 0
  | .rdtc => 0
  | .rdflt => 0

/-- Operand field `B` of a command (R73). -/
def encodeB : Instr → Byte
  | .init tc _ avg => avg.selector ++ tc.selector
  | .rdregs _ len => len
  | .wrreg _ val => val
  | .rdcj => 0
  | .rdtc => 0
  | .rdflt => 0

/-- The word of a command, from the table of R73. -/
def encode (i : Instr) : CommandWord := joinFields (opcode i) (encodeA i) (encodeB i)

/-- The instruction this decoder reads from the opcode table's word `w` of `nbits` bits. A command is
one word of 19 bits (R71), so a number with a bit at or above bit 19 is no command. -/
def decodeTableWord (nbits w : Nat) : Option Instr :=
  if w % 2 ^ nbits < 2 ^ 19 then
    match decode (BitVec.ofNat 19 (w % 2 ^ nbits)) with
    | .ok i => some i
    | .error _ => none
  else none

end Sys2Proof
end

