-- ==== Sys2Proof/Machine/State.lean ====
section
/-! DEFINITION. The state of the block (R20 to R29), the response record (R33), the event history
(R11), the environment that stands behind the ports (R36, R60 to R62), the reasons a step can stop,
and the state after reset (R34, R181). Plain data throughout. -/

namespace Sys2Proof.Machine

/-- The level last driven on the chip-select line: `Active` is logic low, `Inactive` logic high
(R21). -/
inductive Level where
  | inactive | active
  deriving DecidableEq, Repr

/-- The sequencer's phase `ph`, the program-counter analogue (R24). -/
inductive Phase where
  | idle | sel | addr | data | rel
  deriving DecidableEq, Repr

/-- The phase of a failing transport call, `fph` and `cause.phase` (R28, R161): `addr` for an `XW`,
`data` for an `XR`. -/
inductive FailPhase where
  | addr | data
  deriving DecidableEq, Repr

/-- `CFG`, the configuration shadow (R23). -/
structure Cfg where
  tc   : ThermoType
  mode : ConvMode
  avg  : Averaging
  deriving DecidableEq, Repr

/-- The working registers (R25 to R29). Between commands their values are unspecified (R20). -/
structure Work where
  /-- `seq`, the frame counter of INIT (R25). -/
  seq  : Fin 2
  /-- `TXBUF[0]` (R26). -/
  tx0  : Byte
  /-- `TXBUF[1]` (R26). -/
  tx1  : Byte
  /-- `RXBUF[0..MAX_LEN-1]`, `rx[0]` the first byte received (R27). -/
  rx   : List Byte
  /-- `n`, the byte count of the current read frame (R28). -/
  n    : Nat
  /-- `err` (R28). -/
  err  : Bool
  /-- `xerr` (R28). -/
  xerr : XErr
  /-- `fph` (R28). -/
  fph  : FailPhase
  /-- `wres` (R28). -/
  wres : XRes
  /-- `ACC` (R29). -/
  acc  : AccWord
  /-- `SGN` (R29). -/
  sgn  : Bool
  /-- `VAL` (R29). -/
  val  : ValWord
  deriving DecidableEq, Repr

/-- The cause record of an XFAIL (R161). -/
structure Cause where
  frame : Fin 2
  phase : FailPhase
  xerr  : XErr
  deriving DecidableEq, Repr

/-- The fields of the response record that are valid with status OK (R33): none for INIT, `data` for
RDREGS and RDFLT, `wres` for WRREG, `val` for RDCJ and RDTC. -/
inductive Result where
  | none
  | data (bytes : List Byte)
  | wres (res : XRes)
  | val (v : ValWord)
  deriving DecidableEq, Repr

/-- The response record (R33): its status with exactly the fields valid under that status. -/
inductive Response where
  | ok (result : Result)
  | xfail (cause : Cause)
  | refused (reason : Reason)
  deriving DecidableEq, Repr

/-- How a transport call came out: OK with its value, FAIL, or no answer (R10, R118). -/
inductive CallResult (α : Type) where
  | ok (value : α)
  | fail (err : XErr)
  | pending
  deriving DecidableEq, Repr

/-- One call on a consumed capability, with its outcome (R11). A call that never returns is recorded
as a call only (R120). -/
inductive Event where
  | cs (level : Level)
  | xw (bytes : List Byte) (result : CallResult XRes)
  | xr (count : Nat) (result : CallResult (List Byte))
  deriving DecidableEq, Repr

/-- How a frame primitive ended (R111, R112): returned OK, returned FAIL, or its transport call never
returned (R118). -/
inductive FrameEnd where
  | ok | fail | hang
  deriving DecidableEq, Repr

/-- The frame a command is in: its address byte, and the count of bytes to read or the byte to write
(R76, R77). -/
inductive Frame where
  | read (a : Byte) (n : Nat)
  | write (a v : Byte)
  deriving DecidableEq, Repr

/-- The chip register space: the (address, byte) cells of its registers, addresses strictly rising; an
address that is not listed has no register (R40, R42). The canonical form, `Memory.wf`, lists all of
the sixteen registers. DESIGN CHOICE, assumption log 12. -/
abbrev Memory := List Host.Cell

/-- The sixteen registers with the values `f` gives them (R42, R61). -/
def Memory.ofFn (f : Nat → Byte) : Memory := (List.range 16).map fun k => (k, f k)

/-- The mode `m` of the reference chip (R61). -/
inductive ChipMode where
  | none | read | write
  deriving DecidableEq, Repr

/-- The reference chip (R61, R62), an environment for test programs and no part of the block. -/
structure Chip where
  /-- `REG[0x00..0x0F]` (R61). -/
  regs        : Memory
  /-- `ptr`, the internal register pointer (R59, R61). -/
  ptr         : Byte
  /-- `m` (R61). -/
  mode        : ChipMode
  /-- `sel` (R61). -/
  sel         : Bool
  /-- The chip's own changes of `REG[0x0A..0x0F]` still to come, one batch before each frame, oldest
  first (R62). -/
  conversions : List (List Host.Cell)
  /-- A call outside the reference chip's definition has been made: "the simulation must stop and
  report it" (R61). -/
  stopped     : Bool
  deriving DecidableEq, Repr

/-- What stands behind the transport: the oracle of R60 or the reference chip of R61. -/
inductive Far where
  | oracle | refChip
  deriving DecidableEq, Repr

/-- Why the machine stops. -/
inductive Fault where
  /-- Raised by `step` in a state that waits on a transport call that never returns: the block has no
  step there (R118, R173). Safe: nothing is claimed of a run past this point. -/
  | transportHang
  /-- Raised by `step` when a call outside the reference chip's definition was made: "the simulation
  must stop and report it" (R61). Safe. No command run from idle reaches it. -/
  | refChipUndefined
  deriving DecidableEq, Repr

/-- Why the machine gives no meaning. -/
inductive Refusal where
  /-- An instruction that has no meaning in the model yet. Safe. -/
  | notModelled (mnemonic : String)
  /-- Raised by every meaning when a command is run although `ph` is not IDLE: a command offered while
  another runs is outside the spec (R186 row 4, R187, U14). Safe. `step` never asks for it. -/
  | commandWhileBusy
  /-- Raised by `step` when `ph` is not IDLE and no command is in progress, which is no state of the
  block (R24). Safe. No run reaches it. -/
  | noCommandInProgress
  /-- Raised by `step` once a command of the run has been refused: REFUSED has been delivered, and the
  spec gives what follows no meaning (R12, R167, U12, U13: "the model must not step through it").
  Safe: nothing can be proved of a run past a refusal. -/
  | pastRefusedCommand
  /-- Raised by `State.hostReset` when `ph` is not IDLE: a reset during a frame is outside the spec
  (R183, U15). Safe. -/
  | resetDuringFrame
  deriving DecidableEq, Repr

/-- The state: the block's registers, the model's own record of the command in progress, the ports
and the environment behind them, and the history that no rule reads. -/
structure State where
  /-- `cs`, the level on the chip-select line (R21). -/
  cs        : Level
  /-- `cfgd`, construction has completed (R22). -/
  cfgd      : Bool
  /-- `CFG`, the configuration shadow (R23). -/
  cfg       : Cfg
  /-- `ph`, the sequencer (R24). -/
  ph        : Phase
  /-- The working registers (R25 to R29). -/
  work      : Work
  /-- The model's own: the command in progress, which the conditions of R120 speak of; none while
  `ph` is IDLE. -/
  cur       : Option Instr
  /-- The model's own: the transport call of the current phase has been made and will never be
  answered (R118). -/
  waiting   : Bool
  /-- The command port: the words the host will offer, next first (R36, R186). -/
  inbox     : List CommandWord
  /-- The transport port: the replies to the transport calls to come, next first (R36, R60). -/
  replies   : List Reply
  /-- What answers where `replies` lists nothing (R60, R61). -/
  far       : Far
  /-- The reference chip, in use when `far` is `refChip` (R61). -/
  chip      : Chip
  /-- The event history, oldest first (R11). -/
  events    : List Event
  /-- The responses delivered on the response port, oldest first (R33, R36, R176). -/
  responses : List Response
  /-- The model's own: the number of the next draw of a free value. -/
  tick      : Nat
  deriving DecidableEq, Repr

/-- The working registers at reset. The spec leaves them unspecified (R34); the model names these
values. DESIGN CHOICE, assumption log 1. -/
def Work.atReset : Work :=
  { seq := 0, tx0 := 0, tx1 := 0, rx := List.replicate Config.maxLen 0, n := 0, err := false,
    xerr := ⟨0⟩, fph := .addr, wres := ⟨0⟩, acc := 0, sgn := false, val := 0 }

/-- The reference chip before anything happened: every register holds a free value (R62, R185, U4). The
fields other than `regs` are DESIGN CHOICE, assumption log 1. -/
def Chip.atReset : Chip :=
  { regs := Memory.ofFn Config.powerOn, ptr := 0, mode := .none, sel := false, conversions := [], stopped := false }

/-- The machine after reset (R34, R181): `cs` Inactive, `cfgd` 0, `ph` IDLE, the history empty;
`CFG` and the working registers, which the spec leaves unspecified, at values the model names
(DESIGN CHOICE, assumption log 1). No command is offered yet and the oracle stands behind the
transport (assumption log 2). That the line really is inactive is a premise on the host (R182). -/
def State.reset : State :=
  { cs := .inactive, cfgd := false, cfg := ⟨.typeB, .oneShot, .samples1⟩, ph := .idle,
    work := Work.atReset, cur := none, waiting := false, inbox := [], replies := [],
    far := .oracle, chip := Chip.atReset, events := [], responses := [], tick := 0 }

end Sys2Proof.Machine
end

