-- ==== Sys2Proof/Machine/Decoder.lean ====
section
/-! DEFINITION. The DECODER: the fixed-point two's-complement decode of a raw sample (R140 to R152).
-/

namespace Sys2Proof.Machine

/-- The container: the bytes joined most significant first (R46, R81, R82). -/
def container (bytes : List Byte) : Nat := bytes.foldl (fun c b => c * 256 + b.toNat) 0

/-- Step 1 of R140: the sign bit, the top bit of the first byte. -/
def decSign : List Byte → Bool
  | [] => false
  | b :: _ => b.getLsbD 7

/-- Step 1 of R140: the container with the sign bit masked off the first byte. -/
def decAcc : List Byte → Nat
  | [] => 0
  | b :: bs => container ((b &&& 0x7F) :: bs)

/-- Step 2 of R140: the padding `P = 8*N - W` is shifted out. -/
def decMagnitude (w : Nat) (bytes : List Byte) : Nat :=
  decAcc bytes >>> (8 * bytes.length - w)

/-- `DEC(N, W, b[0..N-1])`, the general decode, with `N` the length of the list (R140). -/
def dec (w : Nat) (bytes : List Byte) : Int :=
  if decSign bytes then (decMagnitude w bytes : Int) - 2 ^ (w - 1) else decMagnitude w bytes

/-- What one decode writes: `ACC`, `SGN` and the integer `I` (R29, R140). -/
structure Decoded where
  acc : AccWord
  sgn : Bool
  int : Int
  deriving DecidableEq, Repr

/-- `DEC_CJ(b0, b1)`, the cold-junction decoder (R142). -/
def decCj (b0 b1 : Byte) : Decoded :=
  let sgn := b0.getLsbD 7
  let acc : AccWord := ((b0 &&& 0x7F).setWidth 24 <<< 8) ||| b1.setWidth 24
  let m := (acc >>> 2).toNat
  { acc := acc, sgn := sgn, int := if sgn then (m : Int) - 8192 else m }

/-- `DEC_TC(b0, b1, b2)`, the thermocouple decoder (R143). -/
def decTc (b0 b1 b2 : Byte) : Decoded :=
  let sgn := b0.getLsbD 7
  let acc : AccWord := ((b0 &&& 0x7F).setWidth 24 <<< 16) ||| (b1.setWidth 24 <<< 8) ||| b2.setWidth 24
  let m := (acc >>> 5).toNat
  { acc := acc, sgn := sgn, int := if sgn then (m : Int) - 262144 else m }

/-- The decode as wiring: the top 14 bits of the container read as two's complement (R144). -/
def decCjWired (b0 b1 : Byte) : BitVec 14 := (b0 ++ b1).extractLsb' 2 14

/-- The decode as wiring: the top 19 bits of the container read as two's complement (R144). -/
def decTcWired (b0 b1 b2 : Byte) : BitVec 19 := ((b0 ++ b1) ++ b2).extractLsb' 5 19

/-- Fraction bits of the cold-junction value, `CJ_F` (R7, R141). -/
def cjFraction : Nat := 6

/-- Fraction bits of the thermocouple value, `TC_F` (R7, R141). -/
def tcFraction : Nat := 7

/-- Step 4 of R140: the exact temperature `I * 2^(-F)` in degrees Celsius (R147). -/
def celsius (f : Nat) (i : Int) : Rat := (i : Rat) / (2 : Rat) ^ f

/-- The integer part of a temperature, `I >> F` rounding toward minus infinity (R151). -/
def wholeDegrees (f : Nat) (i : Int) : Int := i >>> f

/-- The fraction field `I[F-1:0]` (R151). -/
def fractionField (f : Nat) (i : Int) : Int := i % 2 ^ f

end Sys2Proof.Machine
end

