-- ==== Sys2Proof/Machine/Operands.lean ====
section
/-! DEFINITION. Operands and constants: the register map and address constants (R41 to R45), the CR1
byte (R80), the frame each command runs (R43, R86), and the checks of R168. -/

namespace Sys2Proof.Machine

/-! ## The register map (R42, R43) -/

/-- `WR_FLAG`, the bit that marks a write address (R7, R41). -/
def writeFlag : Byte := 0x80

/-- Number of addresses in the read map, `N_REGS` (R7). -/
def nRegs : Nat := 16

/-- The last register that has a write address, `CJOFF` (R42, R44, R61). -/
def lastWritable : Nat := 0x09

/-- The registers of the map, by the symbols of R42. The names of 0x03 to 0x08 are the spec's
resolution of conflict C2. -/
inductive RegName where
  | CR0 | CR1 | FMASK | CJHFT | CJLFT | LTHFT_H | LTHFT_L | LTLFT_H | LTLFT_L | CJOFF
  | CJT_H | CJT_L | LT_B2 | LT_B1 | LT_B0 | FLT
  deriving DecidableEq, Repr

/-- The read address of a register (R42). -/
def RegName.readAddress : RegName → Byte
  | .CR0 => 0x00 | .CR1 => 0x01 | .FMASK => 0x02 | .CJHFT => 0x03 | .CJLFT => 0x04
  | .LTHFT_H => 0x05 | .LTHFT_L => 0x06 | .LTLFT_H => 0x07 | .LTLFT_L => 0x08 | .CJOFF => 0x09
  | .CJT_H => 0x0A | .CJT_L => 0x0B | .LT_B2 => 0x0C | .LT_B1 => 0x0D | .LT_B0 => 0x0E
  | .FLT => 0x0F

/-- The write address: the read address OR 0x80, for 0x00 to 0x09 only (R41, R44, R45). -/
def RegName.writeAddress (r : RegName) : Option Byte :=
  if r.readAddress.toNat ≤ lastWritable then some (r.readAddress ||| writeFlag) else none

/-- The register number of an address byte, bits 6:0 (R41). -/
def registerNumber (a : Byte) : Nat := (a.extractLsb' 0 7).toNat

/-- `a` is a read address: bit 7 clear (R41). -/
def isReadForm (a : Byte) : Bool := !a.getLsbD 7

/-- `RADDR` = 0x00, …, 0x0F (R44). -/
def inRaddr (a : Byte) : Bool := decide (a.toNat ≤ 0x0F)

/-- `WADDR` = 0x80, …, 0x89 (R44). -/
def inWaddr (a : Byte) : Bool := decide (0x80 ≤ a.toNat) && decide (a.toNat ≤ 0x89)

/-- 0x80, where INIT sends the CR0 byte (R43, R100). -/
def addrWriteCr0 : Byte := 0x80
/-- 0x81, where INIT sends the CR1 byte (R43, R100). -/
def addrWriteCr1 : Byte := 0x81
/-- `A_CJTH` = 0x0A, where RDCJ reads 2 bytes (R43, R130). -/
def addrCjth : Byte := 0x0A
/-- `A_LTB2` = 0x0C, where RDTC reads 3 bytes (R43, R131). -/
def addrLtb2 : Byte := 0x0C
/-- `A_FLT` = 0x0F, where RDFLT reads 1 byte (R43, R132). -/
def addrFlt : Byte := 0x0F

/-! ## The byte INIT composes -/

/-- `(AVG_CODE << 4) | TC_CODE` of two 4-bit codes (R80). -/
def packCr1 (avgCode tcCode : BitVec 4) : Byte :=
  (avgCode.setWidth 8 <<< 4) ||| tcCode.setWidth 8

/-- `CR1_VALUE(avg, tc) = (AVG_CODE(avg) << 4) | TC_CODE(tc)` (R80). -/
def cr1Value (avg : Averaging) (tc : ThermoType) : Byte :=
  packCr1 (Config.avgCode avg) (Config.tcCode tc)

/-! ## The frame of a command -/

/-- Only INIT runs two frames and is admitted before construction (R22, R25). -/
def isInit : Instr → Bool
  | .init _ _ _ => true
  | .rdregs _ _ => false
  | .wrreg _ _ => false
  | .rdcj => false
  | .rdtc => false
  | .rdflt => false

/-- The frame a command runs when its frame counter is `seq` (R43, R86, R100, R114, R115, R130 to
R132). -/
def frameOf (i : Instr) (seq : Fin 2) : Frame :=
  match i with
  | .init tc mode avg =>
    if seq = 0 then .write addrWriteCr0 (Config.cr0Code mode)
    else .write addrWriteCr1 (cr1Value avg tc)
  | .rdregs addr len => .read addr len.toNat
  | .wrreg addr val => .write addr val
  | .rdcj => .read addrCjth 2
  | .rdtc => .read addrLtb2 3
  | .rdflt => .read addrFlt 1

/-! ## The checks before a command is admitted (R166, R168) -/

/-- Reasons 4 and 5 of R168: the operand ranges of R73, address before length. Reasons 1 to 3 cannot
be met by a value of `Instr`; the decoder reports them. -/
def illegalReason : Instr → Option Reason
  | .init _ _ _ => none
  | .rdregs addr len =>
    if inRaddr addr then
      if len.toNat = 0 then some .badLength
      else if len.toNat ≤ Config.maxLen then none else some .badLength
    else some .badAddress
  | .wrreg addr _ => if inWaddr addr then none else some .badAddress
  | .rdcj => none
  | .rdtc => none
  | .rdflt => none

/-- Reasons 6 and 7 of R168: admission by `cfgd`. -/
def admissionReason (i : Instr) (cfgd : Bool) : Option Reason :=
  if isInit i then (if cfgd then some .alreadyConfigured else none)
  else (if cfgd then none else some .notConfigured)

/-- The reason for which a command is refused, if any: illegal word first, then admission (R166). -/
def refusalReason (i : Instr) (cfgd : Bool) : Option Reason :=
  match illegalReason i with
  | some r => some r
  | none => admissionReason i cfgd

/-- The verdict of R75 on a command word: the legal command it stands for, or the first reason of
R168 among 1 to 5. -/
def assessWord (w : CommandWord) : Except Reason Instr :=
  match decode w with
  | .error r => .error r
  | .ok i =>
    match illegalReason i with
    | some r => .error r
    | none => .ok i

end Sys2Proof.Machine
end

