-- ==== Sys2Proof/Machine/Ops.lean ====
section
/-! DEFINITION. The named operations: the chip register space, the reference chip, the calls on the
two consumed capabilities, the frame primitives RFRAME and WFRAME, the failure path XFAIL, refusal,
admission and response. -/

namespace Sys2Proof.Machine

/-! ## The chip register space (R40, R42) -/

/-- The byte the register at an address holds; none where there is no register (R42). -/
def Memory.read : Memory → Nat → Option Byte
  | [], _ => none
  | (k, b) :: m, a => if k = a then some b else Memory.read m a

/-- The byte at an address becomes `v`. -/
def Memory.put : Memory → Nat → Byte → Memory
  | [], a, v => [(a, v)]
  | (k, b) :: m, a, v =>
    if a < k then (a, v) :: (k, b) :: m
    else if a = k then (a, v) :: m
    else (k, b) :: Memory.put m a v

/-- The registers from `lo` to the last of the map, each once, in rising order (R42). -/
def Memory.wfFrom : Nat → Memory → Bool
  | lo, [] => decide (lo = nRegs)
  | lo, (k, _) :: m => decide (k = lo) && Memory.wfFrom (lo + 1) m

/-- The canonical form: exactly the sixteen registers `REG[0x00..0x0F]`, in order (R61). -/
def Memory.wf (m : Memory) : Bool := Memory.wfFrom 0 m

/-! ## The reference chip (R61, R62) -/

/-- One change the chip makes on its own: a temperature or fault register takes a new value; it never
changes 0x00 to 0x09 on its own (R62). -/
def convertOne (m : Memory) (cell : Host.Cell) : Memory :=
  if 0x0A ≤ cell.1 ∧ cell.1 ≤ 0x0F then m.put cell.1 cell.2 else m

/-- The next batch of the chip's own changes, made between two frames (R62). -/
def Chip.convert (c : Chip) : Chip :=
  match c.conversions with
  | [] => c
  | batch :: rest => { c with regs := batch.foldl convertOne c.regs, conversions := rest }

/-- `on CS(Active)` and `on CS(Inactive)` (R61). The chip's own changes come before the frame. -/
def Chip.onSelect (l : Level) (c : Chip) : Chip :=
  match l with
  | .active => { c.convert with sel := true, mode := .none }
  | .inactive => { c with sel := false, mode := .none }

/-- `on XW(bytes)` (R61). After a call that was not answered OK, `lost` is the free value that the
register addressed then holds, since none, some or all of the bytes may have arrived (R165, U7). A
call outside R61's two forms stops the simulation. -/
def Chip.onWrite (bytes : List Byte) (lost : Option Byte) (c : Chip) : Chip :=
  match bytes with
  | [a] =>
    if c.sel = true ∧ c.mode = .none ∧ isReadForm a = true then { c with ptr := a, mode := .read }
    else { c with stopped := true }
  | [a, v] =>
    if c.sel = true ∧ c.mode = .none ∧ isReadForm a = false then
      { c with
        regs :=
          if registerNumber a ≤ lastWritable then
            c.regs.put (registerNumber a) (lost.getD v)
          else c.regs
        mode := .write }
    else { c with stopped := true }
  | _ => { c with stopped := true }

/-- `on XR(k)`: the pointer steps once per byte (R59, R61). -/
def Chip.onRead (k : Nat) (c : Chip) : Chip :=
  if c.sel = true ∧ c.mode = .read then { c with ptr := c.ptr + BitVec.ofNat 8 k }
  else { c with stopped := true }

/-- The byte the chip serves `i` places after its pointer, `REG[ptr + i]`; none beyond 0x0F, where it is
"any value" (R51, R61). -/
def Chip.byteAt (c : Chip) (i : Nat) : Option Byte :=
  if c.ptr.toNat + i ≤ 0x0F then c.regs.read (c.ptr.toNat + i) else none

/-! ## Single registers and ports -/

def State.setPh (p : Phase) (s : State) : State := { s with ph := p }
def State.setSeq (q : Fin 2) (s : State) : State := { s with work := { s.work with seq := q } }
def State.setN (n : Nat) (s : State) : State := { s with work := { s.work with n := n } }
def State.setTx0 (a : Byte) (s : State) : State := { s with work := { s.work with tx0 := a } }
def State.setTx1 (v : Byte) (s : State) : State := { s with work := { s.work with tx1 := v } }
def State.setWres (r : XRes) (s : State) : State := { s with work := { s.work with wres := r } }

/-- The reference chip after `f`, where it stands behind the transport; under the oracle nothing is
known of a chip and nothing is tracked (R60). -/
def State.onChip (f : Chip → Chip) (s : State) : Chip :=
  match s.far with
  | .refChip => f s.chip
  | .oracle => s.chip

/-- The status output: `cfgd`, and `CFG` where it has a value (R23, R36). -/
def State.statusOutput (s : State) : Bool × Option Cfg :=
  (s.cfgd, if s.cfgd then some s.cfg else none)

/-- The call `CS(l)`: it drives the line, cannot fail, and is made whatever the level was (R10, R21,
R36). -/
def State.driveCs (l : Level) (s : State) : State :=
  { s with cs := l, events := s.events ++ [.cs l], chip := s.onChip (Chip.onSelect l) }

/-! ## The transport (R10, R36, R60) -/

/-- What answers draw `t` where no reply is listed: the oracle gives any reply (R60); the reference
chip never fails and never hangs (R61). -/
def Far.reply (f : Far) (t : Nat) : Reply :=
  match f with
  | .oracle => Config.oracle t
  | .refChip => .ok ⟨Config.free t 0⟩ []

/-- The reply to the `k`-th transport call from here on, counted from 0. -/
def State.replyAt (k : Nat) (s : State) : Reply :=
  match s.replies[k]? with
  | some r => r
  | none => s.far.reply (s.tick + k)

/-- A reply taken as the answer to an `XW`. -/
def writeAnswer : Reply → CallResult XRes
  | .ok r _ => .ok r
  | .fail e => .fail e
  | .never => .pending

/-- The call never returns. -/
def CallResult.isPending {α : Type} : CallResult α → Bool
  | .ok _ => false
  | .fail _ => false
  | .pending => true

/-- What the register addressed by a write holds after a call that was not answered OK: a free byte
(R165, U7). -/
def State.lostByte (s : State) : CallResult XRes → Option Byte
  | .ok _ => none
  | .fail _ => some (Config.freeByte s.tick 500)
  | .pending => some (Config.freeByte s.tick 500)

/-- The byte the chip serves at place `i` of a read, where the reference chip stands behind the
transport. -/
def State.chipByte (s : State) (i : Nat) : Option Byte :=
  match s.far with
  | .refChip => s.chip.byteAt i
  | .oracle => none

/-- Byte `i` of a read: the listed byte, else the reference chip's, else any value (R51, R60). -/
def State.servedByte (s : State) (listed : List Byte) (i : Nat) : Byte :=
  match listed[i]? with
  | some b => b
  | none =>
    match s.chipByte i with
    | some b => b
    | none => Config.freeByte s.tick i

/-- Exactly `k` bytes (R10). -/
def State.servedBytes (s : State) (listed : List Byte) (k : Nat) : List Byte :=
  (List.range k).map (s.servedByte listed)

/-- A reply taken as the answer to an `XR(k)`. -/
def State.readAnswer (s : State) (k : Nat) : Reply → CallResult (List Byte)
  | .ok _ listed => .ok (s.servedBytes listed k)
  | .fail e => .fail e
  | .never => .pending

/-- `XW(bytes)` (R10): the call is made and recorded, and blocks until it is answered. -/
def State.callXw (bytes : List Byte) (s : State) : CallResult XRes × State :=
  (writeAnswer (s.replyAt 0),
   { s with
     events := s.events ++ [.xw bytes (writeAnswer (s.replyAt 0))]
     chip := s.onChip (Chip.onWrite bytes (s.lostByte (writeAnswer (s.replyAt 0))))
     replies := s.replies.tail
     tick := s.tick + 1
     waiting := (writeAnswer (s.replyAt 0)).isPending })

/-- `XR(k)` (R10): the call is made and recorded, and blocks until it is answered. -/
def State.callXr (k : Nat) (s : State) : CallResult (List Byte) × State :=
  (s.readAnswer k (s.replyAt 0),
   { s with
     events := s.events ++ [.xr k (s.readAnswer k (s.replyAt 0))]
     chip := s.onChip (Chip.onRead k)
     replies := s.replies.tail
     tick := s.tick + 1
     waiting := (s.readAnswer k (s.replyAt 0)).isPending })

/-! ## Working registers -/

/-- `RXBUF` with its first entries known and the rest unspecified (R27): free bytes of draw `t`. -/
def rxHolding (t : Nat) (bytes : List Byte) : List Byte :=
  bytes ++ (List.range (Config.maxLen - bytes.length)).map (Config.freeByte t)

/-- `RXBUF[0..n-1] <- bytes`, the rest unspecified; no byte is known after a failed read (R27,
R111). -/
def State.storeRx (bytes : List Byte) (s : State) : State :=
  { s with work := { s.work with rx := rxHolding s.tick bytes }, tick := s.tick + 1 }

/-- `RXBUF[i]`. Every command reads only entries it has received (R20, R27). -/
def State.rxByte (s : State) (i : Nat) : Byte :=
  match s.work.rx[i]? with
  | some b => b
  | none => Config.freeByte s.tick i

/-- A thermocouple type for a free number. -/
def freeThermoType (n : Nat) : ThermoType :=
  match n % 8 with
  | 0 => .typeB | 1 => .typeE | 2 => .typeJ | 3 => .typeK
  | 4 => .typeN | 5 => .typeR | 6 => .typeS | _ => .typeT

/-- An averaging selection for a free number. -/
def freeAveraging (n : Nat) : Averaging :=
  match n % 5 with
  | 0 => .samples1 | 1 => .samples2 | 2 => .samples4 | 3 => .samples8 | _ => .samples16

/-- `CFG` with an unspecified value (R23, R34): draw `t`. -/
def Cfg.unspecified (t : Nat) : Cfg :=
  { tc := freeThermoType (Config.free t 400)
    mode := if Config.free t 401 % 2 = 0 then .oneShot else .continuous
    avg := freeAveraging (Config.free t 402) }

/-- The working registers with unspecified values, "unspecified between commands" (R20, R165): every
register a free value of draw `t`, of its own width. -/
def Work.unspecified (t : Nat) : Work :=
  { seq := if Config.free t 300 % 2 = 0 then 0 else 1
    tx0 := Config.freeByte t 301
    tx1 := Config.freeByte t 302
    rx := rxHolding t []
    n := Config.free t 303 % (Config.maxLen + 1)
    err := decide (Config.free t 304 % 2 = 0)
    xerr := ⟨Config.free t 305⟩
    fph := if Config.free t 306 % 2 = 0 then .addr else .data
    wres := ⟨Config.free t 307⟩
    acc := BitVec.ofNat 24 (Config.free t 308)
    sgn := decide (Config.free t 309 % 2 = 0)
    val := BitVec.ofNat 19 (Config.free t 310) }

/-! ## The end of a command -/

/-- A command was refused. -/
def Response.isRefused : Response → Bool
  | .ok _ => false
  | .xfail _ => false
  | .refused _ => true

/-- `respond(…)`: the response is delivered, `ph` returns to IDLE, and the working registers mean
nothing any more (R10, R20, R33). -/
def State.respond (r : Response) (s : State) : State :=
  { s with
    responses := s.responses ++ [r]
    ph := .idle
    cur := none
    work := Work.unspecified s.tick
    tick := s.tick + 1 }

/-- `refuse(reason)`: the response is delivered and nothing else changes (R10, R167); `step` gives the
run no meaning after it (R12). Assumption log 3. -/
def State.refuse (r : Reason) (s : State) : State :=
  { s with responses := s.responses ++ [.refused r] }

/-! ## Taking the exception XFAIL (R160 to R165) -/

/-- R164 (1): `err <- 1`, `xerr <-` the reported value, `fph <-` the phase of the failing call. -/
def State.noteFailure (e : XErr) (p : FailPhase) (s : State) : State :=
  { s with work := { s.work with err := true, xerr := e, fph := p } }

/-- R164 (3) and the last event of every frame on every path: `ph <- REL; CS(Inactive)` (R113). -/
def State.release (s : State) : State := (s.setPh .rel).driveCs .inactive

/-- `raise XFAIL`, R164 (5) and (6): the cause record of R161 is delivered and the block is idle. The
host gets control; nothing was saved and there is nothing to return from (R169). -/
def State.raiseXfail (frame : Fin 2) (s : State) : State :=
  s.respond (.xfail { frame := frame, phase := s.work.fph, xerr := s.work.xerr })

/-! ## The frame primitives (R111, R112) -/

/-- `RFRAME(a, n)`, the spec's `MemRead(a, n)` (R111). -/
def rframe (a : Byte) (n : Nat) (s : State) : FrameEnd × State :=
  let s₁ := (((s.setPh .sel).driveCs .active).setPh .addr).setTx0 a
  match s₁.callXw [s₁.work.tx0] with
  | (.pending, s₂) => (.hang, s₂)
  | (.fail e, s₂) => (.fail, (s₂.noteFailure e .addr).release)
  | (.ok _, s₂) =>
    match (s₂.setPh .data).callXr n with
    | (.pending, s₃) => (.hang, s₃)
    | (.fail e, s₃) => (.fail, ((s₃.storeRx []).noteFailure e .data).release)
    | (.ok bytes, s₃) => (.ok, (s₃.storeRx bytes).release)

/-- `WFRAME(a, v)`, the spec's `MemWrite(a, 1, v)`; `a` is sent as given (R112). -/
def wframe (a v : Byte) (s : State) : FrameEnd × State :=
  let s₁ := ((((s.setPh .sel).driveCs .active).setPh .addr).setTx0 a).setTx1 v
  match s₁.callXw [s₁.work.tx0, s₁.work.tx1] with
  | (.pending, s₂) => (.hang, s₂)
  | (.fail e, s₂) => (.fail, (s₂.noteFailure e .addr).release)
  | (.ok r, s₂) => (.ok, (s₂.setWres r).release)

/-! ## Admission, and the template of a command -/

/-- A command is admitted: `err <- 0` (R28, R120). -/
def State.accept (i : Instr) (s : State) : State :=
  { s with cur := some i, waiting := false, work := { s.work with err := false } }

/-- The template of every command: offered only while `ph` is IDLE (R187), refused for the first
reason that applies, else run (R166, R168). -/
def command (i : Instr) (s : State) (body : State → State) :
    Host.Outcome State Fault Refusal :=
  if s.ph = .idle then
    .next (match refusalReason i s.cfgd with
      | some r => s.refuse r
      | none => body (s.accept i))
  else .refused .commandWhileBusy

/-! ## How a command ends OK -/

/-- INIT: `CFG <- (tc, mode, avg); cfgd <- 1; respond(OK)` (R100). -/
def State.finishInit (c : Cfg) (s : State) : State :=
  ({ s with cfg := c, cfgd := true }).respond (.ok .none)

/-- RDREGS and RDFLT: `respond(OK, RXBUF[0..n-1])` (R114, R132). -/
def State.finishData (s : State) : State :=
  s.respond (.ok (.data (s.work.rx.take s.work.n)))

/-- WRREG: `respond(OK, wres)` (R115). -/
def State.finishWres (s : State) : State := s.respond (.ok (.wres s.work.wres))

/-- A decode writes `ACC`, `SGN` and `VAL`, the result sign-extended to 19 bits (R29). -/
def State.loadDecoded (d : Decoded) (s : State) : State :=
  { s with work := { s.work with acc := d.acc, sgn := d.sgn, val := BitVec.ofInt 19 d.int } }

/-- Deliver `VAL`. -/
def State.finishVal (s : State) : State := s.respond (.ok (.val s.work.val))

/-- RDCJ: `VAL <- sext_19(DEC_CJ(RXBUF[0], RXBUF[1])); respond(OK, VAL)` (R130). -/
def State.finishCj (s : State) : State :=
  (s.loadDecoded (decCj (s.rxByte 0) (s.rxByte 1))).finishVal

/-- RDTC: `VAL <- DEC_TC(RXBUF[0], RXBUF[1], RXBUF[2]); respond(OK, VAL)` (R131). -/
def State.finishTc (s : State) : State :=
  (s.loadDecoded (decTc (s.rxByte 0) (s.rxByte 1) (s.rxByte 2))).finishVal

/-- The four reading commands: `n <- len; MemRead(a, n)`, then XFAIL or the command's own end (R114,
R130 to R132). A call that never returns leaves the block where it is (R118). -/
def readCommand (a : Byte) (n : Nat) (finish : State → State) (s : State) : State :=
  match rframe a n (s.setN n) with
  | (.hang, s₁) => s₁
  | (.fail, s₁) => s₁.raiseXfail 0
  | (.ok, s₁) => finish s₁

/-! ## Fetching, and reset from outside -/

/-- The command port: the word offered next and the state once it is taken (R36). -/
def State.takeWord (s : State) : Option (CommandWord × State) :=
  match s.inbox with
  | [] => none
  | w :: rest => some (w, { s with inbox := rest })

/-- The simulation has stopped because the reference chip was used outside its definition (R61). -/
def State.simulationStopped (s : State) : Bool := decide (s.far = .refChip) && s.chip.stopped

/-- A command was refused in this run; read off the history of responses, which no later step clears
(R176). -/
def State.refusedBefore (s : State) : Bool := s.responses.any Response.isRefused

/-- A reset of the block from outside, which no command causes (R180): between commands the block's
registers take their reset values, those without one any value, the history starts anew, and no event
is made (R34, R181, R182); the chip's registers then hold unknown values, each a free one (R185, U4);
the rest of the environment stays. During a frame a reset has no meaning (R183). -/
def State.hostReset (s : State) : Host.Outcome State Fault Refusal :=
  if s.ph = .idle then
    .next { s with
      cs := .inactive
      cfgd := false
      cfg := Cfg.unspecified s.tick
      work := Work.unspecified s.tick
      cur := none
      waiting := false
      chip := { s.chip with regs := Memory.ofFn fun k => Config.freeByte s.tick (500 + k) }
      events := []
      responses := []
      tick := s.tick + 1 }
  else .refused .resetDuringFrame

end Sys2Proof.Machine
end

