-- ==== Sys2Proof/Machine/Construction.lean ====
section
/-! DEFINITION. Construction: the meaning of INIT (R100 to R105). -/

namespace Sys2Proof.Machine

/-- INIT `tc, mode, avg` (R100): frame 0 sends the CR0 byte to 0x80, frame 1 the CR1 byte to 0x81; the
first failing frame ends the command (R103). -/
def execInit (tc : ThermoType) (mode : ConvMode) (avg : Averaging) (s : State) :
    Host.Outcome State Fault Refusal :=
  command (.init tc mode avg) s fun s₀ =>
    match wframe addrWriteCr0 (Config.cr0Code mode) (s₀.setSeq 0) with
    | (.hang, s₁) => s₁
    | (.fail, s₁) => s₁.raiseXfail 0
    | (.ok, s₁) =>
      match wframe addrWriteCr1 (cr1Value avg tc) (s₁.setSeq 1) with
      | (.hang, s₂) => s₂
      | (.fail, s₂) => s₂.raiseXfail 1
      | (.ok, s₂) => s₂.finishInit { tc := tc, mode := mode, avg := avg }

end Sys2Proof.Machine
end

