-- ==== Sys2Proof/Machine/Framer.lean ====
section
/-! DEFINITION. The two commands that hand the frame primitives to the host: RDREGS and WRREG (R114,
R115). -/

namespace Sys2Proof.Machine

/-- RDREGS `addr, len` (R114). -/
def execRdregs (addr len : Byte) (s : State) : Host.Outcome State Fault Refusal :=
  command (.rdregs addr len) s (readCommand addr len.toNat State.finishData)

/-- WRREG `addr, val` (R115). The address goes out as given, and neither `CFG` nor `cfgd` changes,
whatever the address. -/
def execWrreg (addr val : Byte) (s : State) : Host.Outcome State Fault Refusal :=
  command (.wrreg addr val) s fun s₀ =>
    match wframe addr val s₀ with
    | (.hang, s₁) => s₁
    | (.fail, s₁) => s₁.raiseXfail 0
    | (.ok, s₁) => s₁.finishWres

end Sys2Proof.Machine
end

