-- ==== Sys2Proof/Machine/Queries.lean ====
section
/-! DEFINITION. The three queries: RDCJ, RDTC and RDFLT (R130 to R134). -/

namespace Sys2Proof.Machine

/-- RDCJ (R130): 2 bytes from 0x0A, decoded as the cold-junction sample. -/
def execRdcj (s : State) : Host.Outcome State Fault Refusal :=
  command .rdcj s (readCommand addrCjth 2 State.finishCj)

/-- RDTC (R131): 3 bytes from 0x0C, decoded as the thermocouple sample. -/
def execRdtc (s : State) : Host.Outcome State Fault Refusal :=
  command .rdtc s (readCommand addrLtb2 3 State.finishTc)

/-- RDFLT (R132): 1 byte from 0x0F, returned as received. -/
def execRdflt (s : State) : Host.Outcome State Fault Refusal :=
  command .rdflt s (readCommand addrFlt 1 State.finishData)

end Sys2Proof.Machine
end

