-- ==== Sys2Proof/Machine/Dispatch.lean ====
section
/-! DEFINITION. The meaning of every command, one arm per row of the opcode table. -/

namespace Sys2Proof.Machine

def exec (i : Instr) (s : State) : Host.Outcome State Fault Refusal :=
  match i with
  | .init tc mode avg => Sys2Proof.Machine.execInit tc mode avg s
  | .rdregs addr len => Sys2Proof.Machine.execRdregs addr len s
  | .wrreg addr val => Sys2Proof.Machine.execWrreg addr val s
  | .rdcj => Sys2Proof.Machine.execRdcj s
  | .rdtc => Sys2Proof.Machine.execRdtc s
  | .rdflt => Sys2Proof.Machine.execRdflt s

end Sys2Proof.Machine
end

