-- ==== Sys2Proof/Machine/Sequencer.lean ====
section
/-! DEFINITION. The sequencer `ph` with its complete transition relation (R24, R120): one phase of a
frame at a time. The meanings of the commands run a frame as one piece (D31); that the two agree is
stated among the obligations. -/

namespace Sys2Proof.Machine

/-- IDLE to SEL when a command is admitted: `err <- 0`, for INIT `seq <- 0`, for a reading command
`n <-` its length (R114, R120, R130 to R132). -/
def State.begin (i : Instr) (s : State) : State :=
  let s₁ := s.accept i
  let s₂ := if isInit i then s₁.setSeq 0 else s₁
  match frameOf i 0 with
  | .read _ n => (s₂.setN n).setPh .sel
  | .write _ _ => s₂.setPh .sel

/-- The end of a command whose last frame was good. -/
def finishCommand (i : Instr) (s : State) : State :=
  match i with
  | .init tc mode avg => s.finishInit { tc := tc, mode := mode, avg := avg }
  | .rdregs _ _ => s.finishData
  | .wrreg _ _ => s.finishWres
  | .rdcj => s.finishCj
  | .rdtc => s.finishTc
  | .rdflt => s.finishData

/-- The index of the frame inside the command: `seq` in INIT, 0 in every other command (R25, R161). -/
def frameIndex (i : Instr) (s : State) : Fin 2 := if isInit i then s.work.seq else 0

/-- Phase ADDR: the `XW` of the frame is made (R120). -/
def advanceAddr (f : Frame) (s : State) : State :=
  match f with
  | .read a _ =>
    let s₁ := s.setTx0 a
    match s₁.callXw [s₁.work.tx0] with
    | (.pending, s₂) => s₂
    | (.fail e, s₂) => (s₂.noteFailure e .addr).setPh .rel
    | (.ok _, s₂) => s₂.setPh .data
  | .write a v =>
    let s₁ := (s.setTx0 a).setTx1 v
    match s₁.callXw [s₁.work.tx0, s₁.work.tx1] with
    | (.pending, s₂) => s₂
    | (.fail e, s₂) => (s₂.noteFailure e .addr).setPh .rel
    | (.ok r, s₂) => (s₂.setWres r).setPh .rel

/-- Phase DATA: `XR(n)` is made (R120). -/
def advanceData (s : State) : State :=
  match s.callXr s.work.n with
  | (.pending, s₁) => s₁
  | (.fail e, s₁) => ((s₁.storeRx []).noteFailure e .data).setPh .rel
  | (.ok bytes, s₁) => (s₁.storeRx bytes).setPh .rel

/-- Phase REL: `CS(Inactive)`, then the second frame of INIT, or the response (R120). -/
def advanceRel (i : Instr) (s : State) : State :=
  let s₁ := s.driveCs .inactive
  if s₁.work.err then s₁.raiseXfail (frameIndex i s₁)
  else if isInit i = true ∧ s₁.work.seq = 0 then (s₁.setSeq 1).setPh .sel
  else finishCommand i s₁

/-- One row of R120 for the command `i` in progress. There is no transition from IDLE but by a
command, and none from a call that never returns. -/
def advance (i : Instr) (s : State) : State :=
  if s.waiting then s
  else
    match s.ph with
    | .idle => s
    | .sel => (s.driveCs .active).setPh .addr
    | .addr => advanceAddr (frameOf i s.work.seq) s
    | .data => advanceData s
    | .rel => advanceRel i s

/-- `k` transitions. -/
def advanceTimes (i : Instr) : Nat → State → State
  | 0, s => s
  | k + 1, s => advanceTimes i k (advance i s)

end Sys2Proof.Machine
end

