-- ==== Sys2Proof/Machine/Step.lean ====
section
/-! DEFINITION. One step. While IDLE the block takes the word the host offers next and runs the
command to its response, or refuses it (R24, R186), after which the run has no meaning (R12, R167);
with no word offered it waits (R175). A state
inside a command goes on by one phase of its frame (R5, R120); one that waits on a call that never
returns has no step (R118). -/

namespace Sys2Proof.Machine

/-- The step. -/
def step (s : State) : Host.Outcome State Fault Refusal :=
  if s.simulationStopped then .fault .refChipUndefined
  else if s.refusedBefore then .refused .pastRefusedCommand
  else if s.ph = .idle then
    match s.takeWord with
    | none => .next s
    | some (w, s₁) =>
      match decode w with
      | .error r => .next (s₁.refuse r)
      | .ok i => exec i s₁
  else if s.waiting then .fault .transportHang
  else
    match s.cur with
    | none => .refused .noCommandInProgress
    | some i => .next (advance i s)

/-- The state `s` with the word `w` offered next on the command port of an idle block, ahead of what
the host offers after it. A command has 19 bits (R71). The port is looked at only while `ph` is IDLE
(R187), so `ph` is IDLE in the result, with no command in progress; a state that is idle already
changes in its command port alone. -/
def State.withFetchWord (s : State) (nbits w : Nat) : State :=
  { s with
    inbox := BitVec.ofNat 19 (w % 2 ^ nbits) :: s.inbox
    ph := .idle
    cur := if s.ph = .idle then s.cur else none
    waiting := if s.ph = .idle then s.waiting else false }

end Sys2Proof.Machine
end

