-- ==== Sys2Proof/Machine/Assembler.lean ====
section
/-! DEFINITION. The assembler notation of R85 and R89: the operands a line names, the defaults of an
absent INIT operand (R101), and the word a line assembles to. -/

namespace Sys2Proof.Machine

/-- How a line names an address: a symbol or a number (R85, R89). A write-address symbol is the
register's symbol with the prefix `W_`. -/
inductive AsmAddress where
  | symbol (r : RegName)
  | number (a : Byte)
  deriving DecidableEq, Repr

/-- One line (R85). An absent INIT operand is `none`. -/
inductive AsmLine where
  | init (tc : Option ThermoType) (mode : Option ConvMode) (avg : Option Averaging)
  | rdregs (addr : AsmAddress) (len : Byte)
  | wrreg (addr : AsmAddress) (val : Byte)
  | rdcj
  | rdtc
  | rdflt
  deriving DecidableEq, Repr

/-- The document's defaults: type K, continuous, 16 samples (R101). -/
def defaultConfiguration : Cfg :=
  { tc := .typeK, mode := .continuous, avg := .samples16 }

/-- A read-address operand (R89). -/
def AsmAddress.asRead : AsmAddress → Byte
  | .symbol r => r.readAddress
  | .number a => a

/-- A write-address operand; no `W_` symbol stands for 0x0A to 0x0F (R89). -/
def AsmAddress.asWrite : AsmAddress → Option Byte
  | .symbol r => r.writeAddress
  | .number a => some a

/-- The command a line stands for; none where it names a symbol that does not exist (R85, R89). R85 does
not say what a line is whose operand lies outside the range it gives: an RDREGS `len` of 0 or above
`MAX_LEN`, or an address number outside the map. Such a line still stands for the command with that
operand, and the block refuses its word. DESIGN CHOICE, assumption log 20. -/
def AsmLine.command : AsmLine → Option Instr
  | .init tc mode avg =>
    some (.init (tc.getD defaultConfiguration.tc) (mode.getD defaultConfiguration.mode)
      (avg.getD defaultConfiguration.avg))
  | .rdregs addr len => some (.rdregs addr.asRead len)
  | .wrreg addr val =>
    match addr.asWrite with
    | some a => some (.wrreg a val)
    | none => none
  | .rdcj => some .rdcj
  | .rdtc => some .rdtc
  | .rdflt => some .rdflt

/-- The word a line assembles to (R85). -/
def assemble (l : AsmLine) : Option CommandWord :=
  match l.command with
  | some i => some (encode i)
  | none => none

end Sys2Proof.Machine
end

