-- ==== Sys2Proof/Machine/Flags.lean ====
section
/-! DEFINITION. The block has no condition codes and no flag that one command sets and a later one
tests (R30), so nothing is computed here for an instruction. What stands here are the binary codes of
a response (R87, R161, R168). -/

namespace Sys2Proof.Machine

/-- `status`, 2 bits: 0b00 OK, 0b01 XFAIL, 0b10 REFUSED (R87). -/
def Response.statusCode : Response → BitVec 2
  | .ok _ => 0b00#2
  | .xfail _ => 0b01#2
  | .refused _ => 0b10#2

/-- ADDR = 0, DATA = 1 (R161). -/
def FailPhase.code : FailPhase → Nat
  | .addr => 0
  | .data => 1

/-- The cause code `2 * frame + phase` (R161). -/
def Cause.code (c : Cause) : Nat := 2 * c.frame.val + c.phase.code

/-- The refusal codes 1 to 7 (R168). -/
def reasonCode : Reason → Nat
  | .badOp => 1
  | .badField => 2
  | .badSelector => 3
  | .badAddress => 4
  | .badLength => 5
  | .notConfigured => 6
  | .alreadyConfigured => 7

end Sys2Proof.Machine
end

