-- ==== Sys2Proof/Safety.lean ====
section
/-! DEFINITION. What counts as a safe run: what has gone wrong (R176), when a run has ended (R198),
the frame discipline as a reader of the event history (R110, R116, R121), and the invariant that
every step keeps. -/

namespace Sys2Proof.Machine

/-! ## What has gone wrong (R176), and the end of a run (R198) -/

/-- A command ended XFAIL. -/
def Response.isXfail : Response → Bool
  | .ok _ => false
  | .xfail _ => true
  | .refused _ => false

/-- Something has gone wrong: a command ended XFAIL, a command was refused, or the block waits on a
call that never returns; read off the history of responses (R176). -/
def State.goneWrong (s : State) : Bool :=
  s.responses.any Response.isXfail || s.refusedBefore || s.waiting

/-- The run has ended: every command offered has its response, `ph` is IDLE, `cs` is Inactive, and no
command was refused (R198). -/
def State.runEnded (s : State) : Bool :=
  s.inbox.isEmpty && decide (s.ph = .idle) && decide (s.cs = .inactive) &&
    !s.refusedBefore

/-- The launch premise on the host: before the first command the line itself has the level that the
block takes it to have after reset (R182, R186 row 2, D21). A claim about the line, as opposed to
the calls the block makes, carries it. -/
def launchPremise (line : Level) : Prop := line = State.reset.cs

/-! ## The frame discipline (R110, R116, R121) -/

/-- Where the bus stands inside a frame, read off the events alone. -/
inductive BusPos where
  /-- Outside a frame: the line is inactive. -/
  | outside
  /-- The line is active, no byte has been sent. -/
  | selected
  /-- The address byte of a read frame has been sent. -/
  | addressed
  /-- The frame's last transport call has returned. -/
  | closing
  /-- A transport call has been made that never returns. -/
  | hung
  deriving DecidableEq, Repr

/-- The only events the discipline allows: `CS(Active)` opens a frame; then one `XW` with a read
address alone, or with a write address and one value byte; after a good address byte one `XR`, which
answers with exactly as many bytes as it asked for; and `CS(Inactive)` closes the frame on every
path. -/
def BusPos.next : BusPos → Event → Option BusPos
  | .outside, .cs .active => some .selected
  | .selected, .xw [a] r =>
    if inRaddr a then
      match r with
      | .ok _ => some .addressed
      | .fail _ => some .closing
      | .pending => some .hung
    else none
  | .selected, .xw [a, _] r =>
    if inWaddr a then
      match r with
      | .ok _ => some .closing
      | .fail _ => some .closing
      | .pending => some .hung
    else none
  | .addressed, .xr k r =>
    match r with
    | .ok bytes => if bytes.length = k then some .closing else none
    | .fail _ => some .closing
    | .pending => some .hung
  | .closing, .cs .inactive => some .outside
  | _, _ => none

/-- The bus after a history, or none where the history breaks the discipline. -/
def busAfter (p : Option BusPos) (events : List Event) : Option BusPos :=
  events.foldl (fun q e => q.bind (·.next e)) p

/-- Where the bus stands in a state, by its sequencer (R24, R118). -/
def State.busPos (s : State) : BusPos :=
  match s.ph with
  | .idle => .outside
  | .sel => .outside
  | .addr => if s.waiting then .hung else .selected
  | .data => if s.waiting then .hung else .addressed
  | .rel => .closing

/-- The level the sequencer gives the line in each phase (R21, R24). -/
def Phase.level : Phase → Level
  | .idle => .inactive
  | .sel => .inactive
  | .addr => .active
  | .data => .active
  | .rel => .active

/-- The levels driven on the line, in order (R116). -/
def csLevels (events : List Event) : List Level :=
  events.filterMap fun e =>
    match e with
    | .cs l => some l
    | .xw _ _ => none
    | .xr _ _ => none

/-- The bytes put on the bus, in order, whatever the calls that carried them: what R117 compares
against an implementation that splits a call. -/
def bytesSent (events : List Event) : List Byte :=
  events.flatMap fun e =>
    match e with
    | .cs _ => []
    | .xw bytes _ => bytes
    | .xr _ _ => []

/-- The bytes taken from the bus, in order (R117). -/
def bytesReceived (events : List Event) : List Byte :=
  events.flatMap fun e =>
    match e with
    | .cs _ => []
    | .xw _ _ => []
    | .xr _ (.ok bytes) => bytes
    | .xr _ (.fail _) => []
    | .xr _ .pending => []

/-! ## The configuration invariant -/

/-- The document's invariant, under the reference chip: construction has completed, and the chip's CR0
and CR1 hold what the configuration supplied at construction makes of them (R105, R191). -/
def State.configMatches (s : State) : Prop :=
  s.cfgd = true ∧ s.far = .refChip ∧
    s.chip.regs.read 0x00 = some (Config.cr0Code s.cfg.mode) ∧
    s.chip.regs.read 0x01 = some (cr1Value s.cfg.avg s.cfg.tc)

/-! ## What a read delivers -/

/-- `bytes` is what a read frame of `n` bytes from address `a`, run in state `s`, delivers when its
`XR` is answered OK with the bytes `listed`: exactly `n` bytes (R10); the listed ones first; and where
the reply lists none and the reference chip stands behind the transport, the chip's register at that
place (R46, R61). Nothing is said of a byte from beyond 0x0F (R51). -/
def State.readDelivers (s : State) (a : Byte) (n : Nat) (listed bytes : List Byte) : Prop :=
  bytes.length = n ∧
    (∀ i, i < n → i < listed.length → bytes[i]? = listed[i]?) ∧
    (s.far = .refChip → ∀ i, i < n → listed.length ≤ i → a.toNat + i ≤ 0x0F →
      ∀ b, s.chip.convert.regs.read (a.toNat + i) = some b → bytes[i]? = some b)

/-- The block is between commands, and the registers that no command but INIT writes, the ports and
the environment's kind are those of `s` (R20 to R24, R36). -/
def State.idleAsBefore (s t : State) : Prop :=
  t.cs = .inactive ∧ t.ph = .idle ∧ t.cfgd = s.cfgd ∧ t.cfg = s.cfg ∧ t.inbox = s.inbox ∧
    t.far = s.far

/-! ## Signed readings -/

/-- `signed_W(v)`: the two's-complement reading of a number below `2^W` (R9). -/
def signedOf (w v : Nat) : Int := if 2 ^ (w - 1) ≤ v then (v : Int) - 2 ^ w else v

/-! ## The invariant -/

/-- The command in progress fits the sequencer: it is legal and was admitted by `cfgd`; DATA occurs
only in a read frame, and a read frame runs with its own byte count (R22, R24, R28, R114). -/
def State.commandFits (s : State) (i : Instr) : Prop :=
  i.wellFormed = true ∧ s.cfgd = !isInit i ∧
    match frameOf i s.work.seq with
    | .read _ n => s.work.n = n
    | .write _ _ => s.ph ≠ .data

/-- The reference chip, where it stands behind the transport, follows the line and the frame, and has
not been used outside its definition (R61). -/
def State.chipFits (s : State) : Prop :=
  s.far = .refChip → s.chip.stopped = false ∧
    (s.ph = .addr → s.waiting = false → s.chip.sel = true ∧ s.chip.mode = .none) ∧
    (s.ph = .data → s.waiting = false → s.chip.sel = true ∧ s.chip.mode = .read)

/-- The invariant of the machine. -/
structure State.Inv (s : State) : Prop where
  /-- The chip register space is in its canonical form (R40, R42). -/
  memory : s.chip.regs.wf = true
  /-- `RXBUF` has `MAX_LEN` entries (R27). -/
  rxSize : s.work.rx.length = Config.maxLen
  /-- `n` is 0 to `MAX_LEN` (R28). -/
  count : s.work.n ≤ Config.maxLen
  /-- The line has the level of the phase; in particular IDLE implies Inactive (R113). -/
  level : s.cs = s.ph.level
  /-- IDLE is between commands (R24). -/
  idle : s.ph = .idle → s.cur = none ∧ s.waiting = false
  /-- Outside IDLE a command is in progress, and it fits. -/
  busy : s.ph ≠ .idle → ∃ i, s.cur = some i ∧ s.commandFits i
  /-- A failure is noted only on the way to the release (R28, R164). -/
  noError : s.ph = .sel ∨ s.ph = .addr ∨ s.ph = .data → s.work.err = false
  /-- Only a phase that makes a transport call can wait (R118). -/
  waits : s.waiting = true → s.ph = .addr ∨ s.ph = .data
  /-- The history keeps the frame discipline and agrees with the sequencer (R110, R116, R121). -/
  bus : busAfter (some .outside) s.events = some s.busPos
  /-- The reference chip fits. -/
  chip : s.chipFits

end Sys2Proof.Machine
end

