-- ==== Sys2Proof/Certificates/Slice0/Obligations.lean ====
section
/-! DEFINITION. The statements for the provers. Each formalises what the spec says a command, a frame,
the decoder or the whole machine does; a docstring names the rule, and names the assumption log where
a clause is the model's choice. -/

open Sys2Proof Sys2Proof.Machine

/-! ## The command word -/

/-- Words written out from the spec's table of encodings (R71 to R73, 95_test_vectors 2.5), one per
command, and one per refusal that the decoder reports. -/
def Obligations.SpecWordsDecode : Prop :=
  decode 0b0010000000101000011#19 = .ok (.init .typeK .continuous .samples16) ∧
  decode 0b0010000000000010010#19 = .ok (.init .typeJ .oneShot .samples2) ∧
  decode 0b0100000101000000010#19 = .ok (.rdregs 0x0A 0x02) ∧
  decode 0b0111000001011111111#19 = .ok (.wrreg 0x82 0xFF) ∧
  decode 0b1000000000000000000#19 = .ok .rdcj ∧
  decode 0b1010000000000000000#19 = .ok .rdtc ∧
  decode 0b1100000000000000000#19 = .ok .rdflt ∧
  decode 0b1110000000000000000#19 = .error .badOp ∧
  decode 0b0010000001001000011#19 = .error .badField ∧
  decode 0b0010000000101010011#19 = .error .badSelector ∧
  decode 0b0111000101000000000#19 = .error .badAddress

/-- Every operand at every value survives encoding and decoding (R73, R90). -/
def Obligations.DecodeOfEncode : Prop :=
  ∀ i : Instr, i.wellFormed = true → decode (encode i) = .ok i

/-- One word per command: a word that decodes is the word of its command, so no bit is ignored (R73,
R91, D4). -/
def Obligations.EncodeOfDecode : Prop :=
  ∀ (w : CommandWord) (i : Instr), decode w = .ok i → encode i = w

/-- The verdict on every word, read off the numbers `op`, `A` and `B` of the word: the first reason of
R168 that applies, and otherwise the one legal command of that word (R73, R75, R168). -/
def Obligations.WordVerdictIsFirstReason : Prop :=
  ∀ (w : CommandWord) (op a b : Nat),
    op = w.toNat / 65536 → a = w.toNat / 256 % 256 → b = w.toNat % 256 →
    (op = 0 ∨ op = 7 → assessWord w = .error .badOp) ∧
    ((op = 1 ∧ 2 ≤ a) ∨ (4 ≤ op ∧ op ≤ 6 ∧ (a ≠ 0 ∨ b ≠ 0)) →
      assessWord w = .error .badField) ∧
    (op = 1 ∧ a < 2 ∧ (4 < b / 16 ∨ 7 < b % 16) → assessWord w = .error .badSelector) ∧
    ((op = 2 ∧ 0x0F < a) ∨ (op = 3 ∧ (a < 0x80 ∨ 0x89 < a)) →
      assessWord w = .error .badAddress) ∧
    (op = 2 ∧ a ≤ 0x0F ∧ (b = 0 ∨ Config.maxLen < b) → assessWord w = .error .badLength) ∧
    ((op = 1 ∧ a < 2 ∧ b / 16 ≤ 4 ∧ b % 16 ≤ 7) ∨
      (op = 2 ∧ a ≤ 0x0F ∧ 1 ≤ b ∧ b ≤ Config.maxLen) ∨
      (op = 3 ∧ 0x80 ≤ a ∧ a ≤ 0x89) ∨ (4 ≤ op ∧ op ≤ 6 ∧ a = 0 ∧ b = 0) →
      ∃ i, assessWord w = .ok i ∧ i.wellFormed = true ∧ encode i = w)

/-- A line with no INIT operand is INIT K, CONT, 16 (selectors 3, 1, 4), the word 0x10143; a given
operand stands (R85, R101). -/
def Obligations.AbsentInitOperandsTakeDefaults : Prop :=
  assemble (.init none none none) = some 0x10143#19 ∧
  ThermoType.selector .typeK = 3 ∧ ConvMode.selector .continuous = 1 ∧
  Averaging.selector .samples16 = 4 ∧
  (∀ tc mode avg, (AsmLine.init tc mode avg).command =
    some (.init (tc.getD .typeK) (mode.getD .continuous) (avg.getD .samples16)))

/-- The register map: the sixteen registers of R42 at the read addresses 0x00 to 0x0F, in that order; a
write address is the read address with
bit 7 set and exists for 0x00 to 0x09 only; and the two name the same register (R41, R42, R44, R45).
-/
def Obligations.RegisterMapAddresses : Prop :=
  RegName.readAddress .CR0 = 0x00 ∧ RegName.readAddress .CR1 = 0x01 ∧
  RegName.readAddress .FMASK = 0x02 ∧ RegName.readAddress .CJHFT = 0x03 ∧
  RegName.readAddress .CJLFT = 0x04 ∧ RegName.readAddress .LTHFT_H = 0x05 ∧
  RegName.readAddress .LTHFT_L = 0x06 ∧ RegName.readAddress .LTLFT_H = 0x07 ∧
  RegName.readAddress .LTLFT_L = 0x08 ∧ RegName.readAddress .CJOFF = 0x09 ∧
  RegName.readAddress .CJT_H = 0x0A ∧ RegName.readAddress .CJT_L = 0x0B ∧
  RegName.readAddress .LT_B2 = 0x0C ∧ RegName.readAddress .LT_B1 = 0x0D ∧
  RegName.readAddress .LT_B0 = 0x0E ∧ RegName.readAddress .FLT = 0x0F ∧
  (∀ a : Byte, inRaddr a = true ↔ ∃ r : RegName, r.readAddress = a) ∧
  (∀ r r' : RegName, r.readAddress = r'.readAddress → r = r') ∧
  (∀ a : Byte, inWaddr a = true ↔ ∃ r : RegName, r.writeAddress = some a) ∧
  (∀ (r : RegName) (a : Byte), r.writeAddress = some a →
    a = r.readAddress ||| 0x80 ∧ registerNumber a = r.readAddress.toNat) ∧
  (∀ a : Byte, inWaddr a = true → isReadForm a = false) ∧
  (∀ a : Byte, inRaddr a = true → isReadForm a = true ∧ registerNumber a = a.toNat)

/-- The CR1 byte is the averaging code in its upper nibble and the type code in its lower nibble,
whatever the codes are, and INIT's byte is the one of its two selectors' codes; with the codes that R7
suggests, 16 samples (4) and type K (3) make 0x43 (R80). -/
def Obligations.Cr1BytePacksTheTwoCodes : Prop :=
  (∀ avgCode tcCode : BitVec 4,
    (packCr1 avgCode tcCode).extractLsb' 4 4 = avgCode ∧
    (packCr1 avgCode tcCode).extractLsb' 0 4 = tcCode ∧
    (packCr1 avgCode tcCode).toNat = avgCode.toNat * 16 + tcCode.toNat) ∧
  (∀ (avg : Averaging) (tc : ThermoType),
    cr1Value avg tc = packCr1 (Config.avgCode avg) (Config.tcCode tc)) ∧
  packCr1 4 3 = 0x43

/-- The binary codes of a response: status is 0b00 for OK, 0b01 for XFAIL, 0b10 for REFUSED, and 0b11 is
never produced; the cause code is `2 * frame + phase` and tells frame and phase apart; and the refusal
codes are 1 to 7 in the order of the checks (R87, R161, R168). -/
def Obligations.ResponseCodes : Prop :=
  (∀ v : Result, (Response.ok v).statusCode = 0b00#2) ∧
  (∀ c : Cause, (Response.xfail c).statusCode = 0b01#2) ∧
  (∀ e : Reason, (Response.refused e).statusCode = 0b10#2) ∧
  (∀ r : Response, r.statusCode ≠ 0b11#2) ∧
  FailPhase.code .addr = 0 ∧ FailPhase.code .data = 1 ∧
  (∀ c : Cause, c.code = 2 * c.frame.val + c.phase.code) ∧
  reasonCode .badOp = 1 ∧ reasonCode .badField = 2 ∧ reasonCode .badSelector = 3 ∧
  reasonCode .badAddress = 4 ∧ reasonCode .badLength = 5 ∧ reasonCode .notConfigured = 6 ∧
  reasonCode .alreadyConfigured = 7 ∧
  (∀ c d : Cause, c.code = d.code → c.frame = d.frame ∧ c.phase = d.phase) ∧
  (∀ e : XErr, (Cause.mk 0 .addr e).code = 0 ∧ (Cause.mk 0 .data e).code = 1 ∧
    (Cause.mk 1 .addr e).code = 2) ∧
  (∀ r r' : Reason, reasonCode r = reasonCode r' → r = r') ∧
  (∀ r : Reason, 1 ≤ reasonCode r ∧ reasonCode r ≤ 7)

/-! ## The step -/

/-- An idle block runs the legal command whose word the host offers next: the step is the command's
meaning in the state with that word taken from the port (R24, R36, R186). The premise "no command was
refused" is R167's. -/
def Obligations.StepRunsTheOfferedCommand : Prop :=
  ∀ (s : State) (w : CommandWord) (rest : List CommandWord) (i : Instr),
    s.simulationStopped = false → s.refusedBefore = false → s.ph = .idle → s.inbox = w :: rest →
    decode w = .ok i →
    step s = exec i { s with inbox := rest }

/-- The word of the opcode table, offered to an idle block, is run by the very next step. That a
program is such a sequence of words is assumption log 2; the premise "no command was refused" is
R167's. -/
def Obligations.OfferedTableWordRunsNext : Prop :=
  ∀ (s : State) (nbits w : Nat) (i : Instr),
    s.simulationStopped = false → s.refusedBefore = false → s.ph = .idle →
    decodeTableWord nbits w = some i →
    step (s.withFetchWord nbits w) = exec i s

/-- A word that is no legal command is refused with its reason, and nothing but the response and the
taken word changes (R75, R167); and the run has no meaning past it (R12, R167, U12). That the response
is a next state and the step after it the refusal is assumption log 3. -/
def Obligations.IllegalWordIsRefused : Prop :=
  ∀ (s : State) (w : CommandWord) (rest : List CommandWord) (r : Reason),
    s.simulationStopped = false → s.refusedBefore = false → s.ph = .idle → s.inbox = w :: rest →
    assessWord w = .error r →
    ∃ t, step s = .next t ∧ t = { s with inbox := rest, responses := s.responses ++ [.refused r] } ∧
      step t = .refused .pastRefusedCommand

/-- A command that is not admitted, or that is illegal, makes no event and changes no register; it
delivers REFUSED with the first reason that applies (R166, R167, R168); and the run has no meaning past
it (R12, R167, U13). That the response is a next state and the step after it the refusal is assumption
log 3. -/
def Obligations.RefusedCommandChangesNothing : Prop :=
  ∀ (i : Instr) (s : State) (r : Reason), s.ph = .idle → refusalReason i s.cfgd = some r →
    ∃ t, exec i s = .next t ∧ t = { s with responses := s.responses ++ [.refused r] } ∧
      (s.simulationStopped = false → step t = .refused .pastRefusedCommand)

/-- Admission by state: a legal INIT is admitted exactly while `cfgd` is 0, every other legal command
exactly while it is 1, and an illegal command is reported as illegal in either (R22, R166, R168). -/
def Obligations.AdmissionByCfgd : Prop :=
  (∀ tc mode avg, refusalReason (.init tc mode avg) false = none ∧
    refusalReason (.init tc mode avg) true = some .alreadyConfigured) ∧
  (∀ i : Instr, (∀ tc mode avg, i ≠ .init tc mode avg) → i.wellFormed = true →
    refusalReason i true = none ∧ refusalReason i false = some .notConfigured) ∧
  (∀ i : Instr, i.wellFormed = false → ∀ c : Bool,
    refusalReason i c = some .badAddress ∨ refusalReason i c = some .badLength)

/-- While a command runs the block does not look at the command port, and no second command can be
run; and nothing but a command wakes an idle block (R163, R175, R186, R187). The refusal by name is
assumption log 15, and that an idle block then steps to the same state is assumption log 14. -/
def Obligations.OnlyAnIdleBlockTakesACommand : Prop :=
  (∀ s t : State, s.ph ≠ .idle → step s = .next t → t.inbox = s.inbox) ∧
  (∀ (i : Instr) (s : State), s.ph ≠ .idle → exec i s = .refused .commandWhileBusy) ∧
  (∀ s : State, s.simulationStopped = false → s.refusedBefore = false → s.ph = .idle →
    s.inbox = [] → step s = .next s)

/-- Every command offered to an idle block is answered with a next state: OK and a failure of the
transport, which are the block's own steps (R12, R33, R120), and, as the model's choices, a refused
command, whose response REFUSED is a next state by assumption log 3 (DEDUCED; D16 gives such a command
no meaning), and a call that never returns, which is a next state by assumption log 4 (DESIGN CHOICE;
R118 gives no step from there). -/
def Obligations.IdleBlockAnswersEveryCommand : Prop :=
  ∀ (i : Instr) (s : State), s.ph = .idle → ∃ t, exec i s = .next t

/-! ## What each command does -/

/-- INIT, both writes good: the CR0 byte to 0x80, then the CR1 byte to 0x81, each in a frame of its
own; then `CFG` holds the operands, `cfgd` is 1, and OK is delivered without a value (R100, R102). -/
def Obligations.InitConfiguresTheChip : Prop :=
  ∀ (tc : ThermoType) (mode : ConvMode) (avg : Averaging) (s : State) (r₀ r₁ : XRes)
    (b₀ b₁ : List Byte),
    s.ph = .idle → s.cfgd = false → s.replyAt 0 = .ok r₀ b₀ → s.replyAt 1 = .ok r₁ b₁ →
    ∃ t, exec (.init tc mode avg) s = .next t ∧
      t.events = s.events ++
        [.cs .active, .xw [0x80, Config.cr0Code mode] (.ok r₀), .cs .inactive,
         .cs .active, .xw [0x81, cr1Value avg tc] (.ok r₁), .cs .inactive] ∧
      t.responses = s.responses ++ [.ok .none] ∧
      t.cfgd = true ∧ t.cfg = { tc := tc, mode := mode, avg := avg } ∧
      t.cs = .inactive ∧ t.ph = .idle ∧ t.inbox = s.inbox ∧ t.far = s.far

/-- INIT, a write failing: the line is released, the frames after the failing one are not sent, `cfgd`
stays 0 and `CFG` is unchanged, XFAIL names the frame, and INIT may be issued again (R103). That the
second frame is not started after a failure of the first is the spec's own reading (R103: "the spec
takes it as its own reading", D18). -/
def Obligations.InitStopsAtTheFirstFailingFrame : Prop :=
  ∀ (tc : ThermoType) (mode : ConvMode) (avg : Averaging) (s : State) (e : XErr),
    s.ph = .idle → s.cfgd = false →
    (s.replyAt 0 = .fail e →
      ∃ t, exec (.init tc mode avg) s = .next t ∧
        t.events = s.events ++
          [.cs .active, .xw [0x80, Config.cr0Code mode] (.fail e), .cs .inactive] ∧
        t.responses = s.responses ++ [.xfail { frame := 0, phase := .addr, xerr := e }] ∧
        s.idleAsBefore t ∧ refusalReason (.init tc mode avg) t.cfgd = none) ∧
    (∀ r₀ b₀, s.replyAt 0 = .ok r₀ b₀ → s.replyAt 1 = .fail e →
      ∃ t, exec (.init tc mode avg) s = .next t ∧
        t.events = s.events ++
          [.cs .active, .xw [0x80, Config.cr0Code mode] (.ok r₀), .cs .inactive,
           .cs .active, .xw [0x81, cr1Value avg tc] (.fail e), .cs .inactive] ∧
        t.responses = s.responses ++ [.xfail { frame := 1, phase := .addr, xerr := e }] ∧
        s.idleAsBefore t ∧ refusalReason (.init tc mode avg) t.cfgd = none)

/-- RDREGS: one read frame of `len` bytes from `addr`, and the bytes received in order (R114). -/
def Obligations.RdregsReturnsTheRegisters : Prop :=
  ∀ (addr len : Byte) (s : State) (r₀ r₁ : XRes) (b₀ listed : List Byte),
    s.ph = .idle → s.cfgd = true → addr.toNat ≤ 0x0F → 1 ≤ len.toNat →
    len.toNat ≤ Config.maxLen → s.replyAt 0 = .ok r₀ b₀ → s.replyAt 1 = .ok r₁ listed →
    ∃ t bytes, exec (.rdregs addr len) s = .next t ∧
      s.readDelivers addr len.toNat listed bytes ∧
      t.events = s.events ++
        [.cs .active, .xw [addr] (.ok r₀), .xr len.toNat (.ok bytes), .cs .inactive] ∧
      t.responses = s.responses ++ [.ok (.data bytes)] ∧ s.idleAsBefore t

/-- WRREG: one write frame of the address as given and the value, and the transport's own result
(R115). -/
def Obligations.WrregSendsAddressAndValue : Prop :=
  ∀ (addr val : Byte) (s : State) (r₀ : XRes) (b₀ : List Byte),
    s.ph = .idle → s.cfgd = true → 0x80 ≤ addr.toNat → addr.toNat ≤ 0x89 →
    s.replyAt 0 = .ok r₀ b₀ →
    ∃ t, exec (.wrreg addr val) s = .next t ∧
      t.events = s.events ++ [.cs .active, .xw [addr, val] (.ok r₀), .cs .inactive] ∧
      t.responses = s.responses ++ [.ok (.wres r₀)] ∧ s.idleAsBefore t

/-- RDCJ: 2 bytes from 0x0A in one frame, and their 14-bit decode sign-extended (R130, R140). -/
def Obligations.RdcjReturnsTheColdJunction : Prop :=
  ∀ (s : State) (r₀ r₁ : XRes) (c₀ listed : List Byte),
    s.ph = .idle → s.cfgd = true → s.replyAt 0 = .ok r₀ c₀ → s.replyAt 1 = .ok r₁ listed →
    ∃ t b₀ b₁ v, exec .rdcj s = .next t ∧ s.readDelivers 0x0A 2 listed [b₀, b₁] ∧
      t.events = s.events ++
        [.cs .active, .xw [0x0A] (.ok r₀), .xr 2 (.ok [b₀, b₁]), .cs .inactive] ∧
      t.responses = s.responses ++ [.ok (.val v)] ∧ v.toInt = dec 14 [b₀, b₁] ∧ s.idleAsBefore t

/-- RDTC: 3 bytes from 0x0C in one frame, and their 19-bit decode (R131, R140). -/
def Obligations.RdtcReturnsTheThermocouple : Prop :=
  ∀ (s : State) (r₀ r₁ : XRes) (c₀ listed : List Byte),
    s.ph = .idle → s.cfgd = true → s.replyAt 0 = .ok r₀ c₀ → s.replyAt 1 = .ok r₁ listed →
    ∃ t b₀ b₁ b₂ v, exec .rdtc s = .next t ∧ s.readDelivers 0x0C 3 listed [b₀, b₁, b₂] ∧
      t.events = s.events ++
        [.cs .active, .xw [0x0C] (.ok r₀), .xr 3 (.ok [b₀, b₁, b₂]), .cs .inactive] ∧
      t.responses = s.responses ++ [.ok (.val v)] ∧ v.toInt = dec 19 [b₀, b₁, b₂] ∧
      s.idleAsBefore t

/-- RDFLT: 1 byte from 0x0F in one frame, returned as received (R132). -/
def Obligations.RdfltReturnsTheFaultByte : Prop :=
  ∀ (s : State) (r₀ r₁ : XRes) (c₀ listed : List Byte),
    s.ph = .idle → s.cfgd = true → s.replyAt 0 = .ok r₀ c₀ → s.replyAt 1 = .ok r₁ listed →
    ∃ t f, exec .rdflt s = .next t ∧ s.readDelivers 0x0F 1 listed [f] ∧
      t.events = s.events ++
        [.cs .active, .xw [0x0F] (.ok r₀), .xr 1 (.ok [f]), .cs .inactive] ∧
      t.responses = s.responses ++ [.ok (.data [f])] ∧ s.idleAsBefore t

/-! ## Failure and hang -/

/-- XFAIL in the address phase of any command's first frame: the failing call is the last but for the
release, no `XR` is made, no result is returned, and the kept registers stay (R160, R161, R164, R165).
-/
def Obligations.FailedAddressWriteReleasesAndReports : Prop :=
  ∀ (i : Instr) (s : State) (e : XErr), s.ph = .idle → refusalReason i s.cfgd = none →
    s.replyAt 0 = .fail e →
    ∃ t, exec i s = .next t ∧
      (∀ a n, frameOf i 0 = .read a n →
        t.events = s.events ++ [.cs .active, .xw [a] (.fail e), .cs .inactive]) ∧
      (∀ a v, frameOf i 0 = .write a v →
        t.events = s.events ++ [.cs .active, .xw [a, v] (.fail e), .cs .inactive]) ∧
      t.responses = s.responses ++ [.xfail { frame := 0, phase := .addr, xerr := e }] ∧
      s.idleAsBefore t

/-- XFAIL in the data phase of a reading command: after the failing `XR` comes the release and nothing
else, and no byte is returned (R161, R164, R165). -/
def Obligations.FailedReadReleasesAndReports : Prop :=
  ∀ (i : Instr) (a : Byte) (n : Nat) (s : State) (r₀ : XRes) (b₀ : List Byte) (e : XErr),
    s.ph = .idle → refusalReason i s.cfgd = none → frameOf i 0 = .read a n →
    s.replyAt 0 = .ok r₀ b₀ → s.replyAt 1 = .fail e →
    ∃ t, exec i s = .next t ∧
      t.events = s.events ++
        [.cs .active, .xw [a] (.ok r₀), .xr n (.fail e), .cs .inactive] ∧
      t.responses = s.responses ++ [.xfail { frame := 0, phase := .data, xerr := e }] ∧
      s.idleAsBefore t

/-- A transport call that never returns leaves the block in the phase that made it, with the line
active and no response, and the block has no step from there (R118, R173). That the call itself is a
next state is assumption log 4. -/
def Obligations.HungCallLeavesNoStep : Prop :=
  ∀ (i : Instr) (a : Byte) (n : Nat) (s : State),
    s.ph = .idle → refusalReason i s.cfgd = none → frameOf i 0 = .read a n →
    (s.replyAt 0 = .never →
      ∃ t, exec i s = .next t ∧ t.ph = .addr ∧ t.cs = .active ∧ t.responses = s.responses ∧
        t.events = s.events ++ [.cs .active, .xw [a] .pending] ∧ ∀ u, step t ≠ .next u) ∧
    (∀ r₀ b₀, s.replyAt 0 = .ok r₀ b₀ → s.replyAt 1 = .never →
      ∃ t, exec i s = .next t ∧ t.ph = .data ∧ t.cs = .active ∧ t.responses = s.responses ∧
        t.events = s.events ++ [.cs .active, .xw [a] (.ok r₀), .xr n .pending] ∧
        ∀ u, step t ≠ .next u)

/-- The same for the write frames, the second frame of INIT included (R118, R173; assumption log 4).
-/
def Obligations.HungWriteLeavesNoStep : Prop :=
  ∀ (i : Instr) (a v : Byte) (s : State),
    s.ph = .idle → refusalReason i s.cfgd = none → frameOf i 0 = .write a v →
    (s.replyAt 0 = .never →
      ∃ t, exec i s = .next t ∧ t.ph = .addr ∧ t.cs = .active ∧ t.responses = s.responses ∧
        t.cfgd = s.cfgd ∧ t.cfg = s.cfg ∧
        t.events = s.events ++ [.cs .active, .xw [a, v] .pending] ∧
        ∀ u, step t ≠ .next u) ∧
    (∀ r₀ b₀ a' v', isInit i = true → frameOf i 1 = .write a' v' →
      s.replyAt 0 = .ok r₀ b₀ → s.replyAt 1 = .never →
      ∃ t, exec i s = .next t ∧ t.ph = .addr ∧ t.cs = .active ∧ t.responses = s.responses ∧
        t.cfgd = s.cfgd ∧ t.cfg = s.cfg ∧
        t.events = s.events ++ [.cs .active, .xw [a, v] (.ok r₀), .cs .inactive, .cs .active,
          .xw [a', v'] .pending] ∧
        ∀ u, step t ≠ .next u)

/-! ## The frame primitives -/

/-- RFRAME's registers and events on each path: `TXBUF[0]` is the address; on success `RXBUF[0..n-1]` is
the bytes received, first received first; a failing `XW` leaves `RXBUF` as it was, and after a failing
`XR` nothing is known of it but its size (assumption log 6); on failure `err`, `xerr` and `fph` say what
failed; no other working register changes; `ph` is REL and the line is released on all three (R111,
R113). -/
def Obligations.ReadFrameRegisters : Prop :=
  ∀ (a : Byte) (n : Nat) (s : State), n ≤ Config.maxLen →
    (∀ r₀ b₀ r₁ listed, s.replyAt 0 = .ok r₀ b₀ → s.replyAt 1 = .ok r₁ listed →
      ∃ t bytes, rframe a n s = (.ok, t) ∧ bytes.length = n ∧ t.work.tx0 = a ∧
        t.work.rx.take n = bytes ∧ t.work.rx.length = Config.maxLen ∧
        t.work = { s.work with tx0 := a, rx := t.work.rx } ∧ t.ph = .rel ∧ t.cs = .inactive ∧
        t.events = s.events ++
          [.cs .active, .xw [a] (.ok r₀), .xr n (.ok bytes), .cs .inactive]) ∧
    (∀ r₀ b₀ e, s.replyAt 0 = .ok r₀ b₀ → s.replyAt 1 = .fail e →
      ∃ t, rframe a n s = (.fail, t) ∧ t.work.rx.length = Config.maxLen ∧
        t.work = { s.work with
          tx0 := a, rx := t.work.rx, err := true, xerr := e, fph := .data } ∧
        t.ph = .rel ∧ t.cs = .inactive ∧
        t.events = s.events ++
          [.cs .active, .xw [a] (.ok r₀), .xr n (.fail e), .cs .inactive]) ∧
    (∀ e, s.replyAt 0 = .fail e →
      ∃ t, rframe a n s = (.fail, t) ∧
        t.work = { s.work with tx0 := a, err := true, xerr := e, fph := .addr } ∧
        t.ph = .rel ∧ t.cs = .inactive ∧
        t.events = s.events ++ [.cs .active, .xw [a] (.fail e), .cs .inactive])

/-- WFRAME's registers and events: `TXBUF` holds address and value, both sent in one call, address
first, and `wres` the transport's result; on failure `err`, `xerr` and `fph`; no other working
register changes (R112, R113). -/
def Obligations.WriteFrameRegisters : Prop :=
  ∀ (a v : Byte) (s : State),
    (∀ r b, s.replyAt 0 = .ok r b →
      ∃ t, wframe a v s = (.ok, t) ∧
        t.work = { s.work with tx0 := a, tx1 := v, wres := r } ∧ t.ph = .rel ∧
        t.cs = .inactive ∧
        t.events = s.events ++ [.cs .active, .xw [a, v] (.ok r), .cs .inactive]) ∧
    (∀ e, s.replyAt 0 = .fail e →
      ∃ t, wframe a v s = (.fail, t) ∧
        t.work = { s.work with tx0 := a, tx1 := v, err := true, xerr := e, fph := .addr } ∧
        t.ph = .rel ∧ t.cs = .inactive ∧
        t.events = s.events ++ [.cs .active, .xw [a, v] (.fail e), .cs .inactive])

/-! ## Frames: what a command leaves unchanged -/

/-- No command but INIT writes `cfgd` or `CFG`, on any path, WRREG to the chip's CR0 and CR1 included
(R23, R105, R115, R165, R191). -/
def Obligations.OnlyInitWritesTheConfiguration : Prop :=
  ∀ (i : Instr) (s t : State), (∀ tc mode avg, i ≠ .init tc mode avg) → exec i s = .next t →
    t.cfgd = s.cfgd ∧ t.cfg = s.cfg

/-- `cfgd` becomes 1 only by an INIT both of whose frames were sent without a failure, and then `CFG`
is that INIT's operands; once 1, neither changes in any later step (R22, R23, R102, R105). -/
def Obligations.ConfigurationIsWrittenOnce : Prop :=
  (∀ (i : Instr) (s t : State), exec i s = .next t → s.cfgd = false → t.cfgd = true →
    ∃ tc mode avg r₀ r₁, i = .init tc mode avg ∧ t.cfg = { tc := tc, mode := mode, avg := avg } ∧
      t.events = s.events ++
        [.cs .active, .xw [0x80, Config.cr0Code mode] (.ok r₀), .cs .inactive,
         .cs .active, .xw [0x81, cr1Value avg tc] (.ok r₁), .cs .inactive]) ∧
  (∀ s t : State, s.Inv → step s = .next t → s.cfgd = true → t.cfgd = true ∧ t.cfg = s.cfg)

/-- The frame of every command on every path, refusal, failure and hang included: a register of the
reference chip that none of the command's write frames names is as it was, but for the changes the
chip makes on its own; and no command touches the command port nor what stands behind the transport
(R36, R50, R56, R61, R62, R102). That no chip is tracked with the oracle behind the transport is the
model's choice, assumption log 11. -/
def Obligations.OnlyNamedChipRegistersChange : Prop :=
  ∀ (i : Instr) (s t : State), exec i s = .next t →
    (∀ k, (∀ q a v, frameOf i q = .write a v → registerNumber a ≠ k) →
      (k ≤ 0x09 → t.chip.regs.read k = s.chip.regs.read k) ∧
      (s.chip.conversions = [] → t.chip.regs.read k = s.chip.regs.read k)) ∧
    (s.far = .oracle → t.chip = s.chip) ∧ t.inbox = s.inbox ∧ t.far = s.far

/-- The document's invariant with its premise, under the reference chip: a successful INIT makes the
chip's CR0 and CR1 match `CFG`; every command but a WRREG to 0x80 or 0x81 keeps the match, on every
path; and a WRREG of another value to 0x80 breaks it, while `CFG` stays (R105, R191, C4; assumption
log 11). -/
def Obligations.ConfigurationMatchesUnlessWrregRewritesIt : Prop :=
  (∀ (tc : ThermoType) (mode : ConvMode) (avg : Averaging) (s : State) (r₀ r₁ : XRes)
    (b₀ b₁ : List Byte),
    s.ph = .idle → s.cfgd = false → s.far = .refChip →
    s.replyAt 0 = .ok r₀ b₀ → s.replyAt 1 = .ok r₁ b₁ →
    ∃ t, exec (.init tc mode avg) s = .next t ∧ t.configMatches) ∧
  (∀ (i : Instr) (s t : State), s.configMatches →
    (∀ v, i ≠ .wrreg 0x80 v ∧ i ≠ .wrreg 0x81 v) → exec i s = .next t → t.configMatches) ∧
  (∀ (s : State) (v : Byte) (r₀ : XRes) (b₀ : List Byte), s.configMatches → s.ph = .idle →
    s.replyAt 0 = .ok r₀ b₀ → v ≠ Config.cr0Code s.cfg.mode →
    ∃ t, exec (.wrreg 0x80 v) s = .next t ∧ ¬ t.configMatches ∧ t.cfg = s.cfg ∧ t.cfgd = true)

/-- An admitted WRREG under the reference chip writes the register its address names and no other: the
value after a good call, some byte of which nothing is said after any other (R41, R61, R115, R165, U7;
assumption log 11). -/
def Obligations.WrregWritesOneChipRegister : Prop :=
  ∀ (addr val : Byte) (s : State), s.ph = .idle → s.cfgd = true → s.far = .refChip →
    0x80 ≤ addr.toNat → addr.toNat ≤ 0x89 →
    ∃ t, exec (.wrreg addr val) s = .next t ∧
      (∀ r b, s.replyAt 0 = .ok r b → t.chip.regs.read (registerNumber addr) = some val) ∧
      ((∀ r b, s.replyAt 0 ≠ .ok r b) →
        ∃ v, t.chip.regs.read (registerNumber addr) = some v) ∧
      (∀ k, k ≠ registerNumber addr → k ≤ 0x09 → t.chip.regs.read k = s.chip.regs.read k) ∧
      (s.chip.conversions = [] →
        ∀ k, k ≠ registerNumber addr → t.chip.regs.read k = s.chip.regs.read k)

/-- A successful INIT under the reference chip leaves the two composed bytes in CR0 and CR1 and every
other register as it was, but for the chip's own changes (R61, R100, R102). -/
def Obligations.InitWritesCr0AndCr1Only : Prop :=
  ∀ (tc : ThermoType) (mode : ConvMode) (avg : Averaging) (s : State) (r₀ r₁ : XRes)
    (b₀ b₁ : List Byte),
    s.ph = .idle → s.cfgd = false → s.far = .refChip →
    s.replyAt 0 = .ok r₀ b₀ → s.replyAt 1 = .ok r₁ b₁ →
    ∃ t, exec (.init tc mode avg) s = .next t ∧
      t.chip.regs.read 0 = some (Config.cr0Code mode) ∧
      t.chip.regs.read 1 = some (cr1Value avg tc) ∧
      (∀ k, 2 ≤ k → k ≤ 0x09 → t.chip.regs.read k = s.chip.regs.read k) ∧
      (s.chip.conversions = [] → ∀ k, 2 ≤ k → t.chip.regs.read k = s.chip.regs.read k)

/-- Under the reference chip, a register written by WRREG reads back as written (R61, S6). -/
def Obligations.WrittenRegisterReadsBack : Prop :=
  ∀ (addr val : Byte) (s : State), s.ph = .idle → s.cfgd = true → s.far = .refChip →
    s.replies = [] → 0x80 ≤ addr.toNat → addr.toNat ≤ 0x89 →
    ∃ t u, exec (.wrreg addr val) s = .next t ∧
      exec (.rdregs (addr &&& 0x7F) 1) t = .next u ∧
      u.responses = t.responses ++ [.ok (.data [val])]

/-- Repeated reads of the same registers with no change of the chip between them return the same
bytes, which are the registers', whatever the registers hold; nothing is said of bytes from beyond
0x0F (R50, R51, R61, S6; under the reference chip, assumption log 11). -/
def Obligations.RepeatedReadsAgree : Prop :=
  ∀ (addr len : Byte) (s : State), s.ph = .idle → s.cfgd = true → s.far = .refChip →
    s.replies = [] → s.chip.conversions = [] → 1 ≤ len.toNat → len.toNat ≤ Config.maxLen →
    addr.toNat ≤ 0x0F → s.chip.regs.wf = true →
    ∃ t u bytes bytes', exec (.rdregs addr len) s = .next t ∧
      exec (.rdregs addr len) t = .next u ∧
      t.responses = s.responses ++ [.ok (.data bytes)] ∧
      u.responses = t.responses ++ [.ok (.data bytes')] ∧
      bytes.length = len.toNat ∧ bytes'.length = len.toNat ∧
      ∀ k, k < len.toNat → addr.toNat + k ≤ 0x0F →
        ∃ v, bytes[k]? = some v ∧ bytes'[k]? = some v ∧ s.chip.regs.read (addr.toNat + k) = some v

/-! ## Equivalences between commands -/

/-- RDFLT is RDREGS FLT, 1; RDCJ and RDTC have the trace of RDREGS CJT_H, 2 and RDREGS LT_B2, 3, with
their value the decode of its bytes, and the same response where it is not OK (R86). -/
def Obligations.QueriesAreRegisterReads : Prop :=
  ∀ s : State, s.ph = .idle →
    (∃ t u, exec .rdflt s = .next t ∧ exec (.rdregs 0x0F 1) s = .next u ∧
      t.events = u.events ∧ t.responses = u.responses) ∧
    (∃ t u, exec .rdcj s = .next t ∧ exec (.rdregs 0x0A 2) s = .next u ∧ t.events = u.events ∧
      (∀ bytes, u.responses = s.responses ++ [.ok (.data bytes)] →
        ∃ v, t.responses = s.responses ++ [.ok (.val v)] ∧ v.toInt = dec 14 bytes) ∧
      ((∀ bytes, u.responses ≠ s.responses ++ [.ok (.data bytes)]) →
        t.responses = u.responses)) ∧
    (∃ t u, exec .rdtc s = .next t ∧ exec (.rdregs 0x0C 3) s = .next u ∧ t.events = u.events ∧
      (∀ bytes, u.responses = s.responses ++ [.ok (.data bytes)] →
        ∃ v, t.responses = s.responses ++ [.ok (.val v)] ∧ v.toInt = dec 19 bytes) ∧
      ((∀ bytes, u.responses ≠ s.responses ++ [.ok (.data bytes)]) →
        t.responses = u.responses))

/-- INIT has the trace of WRREG W_CR0 with the CR0 byte followed by WRREG W_CR1 with the CR1 byte, run
in the state that differs by `cfgd` alone (R86). -/
def Obligations.InitTraceIsTwoRegisterWrites : Prop :=
  ∀ (tc : ThermoType) (mode : ConvMode) (avg : Averaging) (s : State) (r₀ r₁ : XRes)
    (b₀ b₁ : List Byte) (rest : List Reply),
    s.ph = .idle → s.cfgd = false → s.replies = .ok r₀ b₀ :: .ok r₁ b₁ :: rest →
    ∃ t u₁ u₂, exec (.init tc mode avg) s = .next t ∧
      exec (.wrreg 0x80 (Config.cr0Code mode)) { s with cfgd := true } = .next u₁ ∧
      exec (.wrreg 0x81 (cr1Value avg tc)) u₁ = .next u₂ ∧
      t.events = u₂.events ∧ t.chip = u₂.chip

/-! ## Whole-machine rules -/

/-- The meanings agree with the sequencer: running a command as one piece ends exactly where the
transition relation of R120 ends, one capability call at a time, on every path (R24, R120, D31). -/
def Obligations.MeaningsRefineTheSequencer : Prop :=
  ∀ (i : Instr) (s : State), s.ph = .idle → refusalReason i s.cfgd = none →
    exec i s = .next (advanceTimes i 6 (s.begin i))

/-- The rows of the transition table that make a call: from each phase, the one event made and the
phase that follows (R24, R120). -/
def Obligations.SequencerRows : Prop :=
  ∀ (i : Instr) (s : State), s.waiting = false →
    (s.ph = .sel → (advance i s).ph = .addr ∧ (advance i s).cs = .active ∧
      (advance i s).events = s.events ++ [.cs .active]) ∧
    (s.ph = .addr → ∀ a n, frameOf i s.work.seq = .read a n →
      ∃ r, (advance i s).events = s.events ++ [.xw [a] r] ∧
        ((∃ v, r = .ok v) → (advance i s).ph = .data) ∧
        ((∃ e, r = .fail e) → (advance i s).ph = .rel ∧ (advance i s).work.err = true) ∧
        (r = .pending → (advance i s).ph = .addr ∧ advance i (advance i s) = advance i s)) ∧
    (s.ph = .addr → ∀ a v, frameOf i s.work.seq = .write a v →
      ∃ r, (advance i s).events = s.events ++ [.xw [a, v] r] ∧
        ((∃ v, r = .ok v) → (advance i s).ph = .rel ∧ (advance i s).work.err = s.work.err) ∧
        ((∃ e, r = .fail e) → (advance i s).ph = .rel ∧ (advance i s).work.err = true) ∧
        (r = .pending → (advance i s).ph = .addr ∧ advance i (advance i s) = advance i s)) ∧
    (s.ph = .data → ∃ r, (advance i s).events = s.events ++ [.xr s.work.n r] ∧
      ((∃ v, r = .ok v) → (advance i s).ph = .rel ∧ (advance i s).work.err = s.work.err) ∧
      ((∃ e, r = .fail e) → (advance i s).ph = .rel ∧ (advance i s).work.err = true) ∧
      (r = .pending → (advance i s).ph = .data ∧ advance i (advance i s) = advance i s)) ∧
    (s.ph = .rel → (advance i s).events = s.events ++ [.cs .inactive] ∧
      (advance i s).cs = .inactive ∧
      (isInit i = true ∧ s.work.seq = 0 ∧ s.work.err = false →
        (advance i s).ph = .sel ∧ (advance i s).work.seq = 1 ∧
          (advance i s).responses = s.responses) ∧
      (¬ (isInit i = true ∧ s.work.seq = 0 ∧ s.work.err = false) →
        (advance i s).ph = .idle ∧ ∃ r, (advance i s).responses = s.responses ++ [r] ∧
          (s.work.err = true → ∃ c, r = .xfail c) ∧ (s.work.err = false → ∃ v, r = .ok v)))

/-- Every step keeps the invariant: the chip's memory in canonical form, the line at the level of the
phase, the history inside the frame discipline, the reference chip inside its definition, `RXBUF` and
`n` inside their bounds (R21, R24, R27, R28, R61, R110, R113, R116, R121). -/
def Obligations.StepKeepsTheInvariant : Prop :=
  ∀ s t : State, s.Inv → step s = .next t → t.Inv

/-- The state after reset meets the invariant. -/
def Obligations.ResetMeetsTheInvariant : Prop := State.reset.Inv

/-- Under the invariant a step stops in two cases and no other: past a refused command, by name, and,
where none was refused, on a transport call that never returns, with a named fault; in every other
state it answers a next state. That the block has no step there is R118 and R173, and that a run has
no meaning past a refusal is R12 and R167; the model's choices are that the refused command itself is a
step (assumption log 3), that the call that never returns is a step and the state after it the fault
(assumption log 4), and that an idle block with no word offered has a step (assumption log 14). -/
def Obligations.StepStopsOnlyOnAHangOrPastARefusal : Prop :=
  ∀ s : State, s.Inv →
    (s.refusedBefore = true → step s = .refused .pastRefusedCommand) ∧
    (s.refusedBefore = false → s.waiting = true → step s = .fault .transportHang) ∧
    (s.refusedBefore = false → s.waiting = false → ∃ t, step s = .next t)

/-- Between commands the chip-select calls alternate strictly, Active then Inactive, starting with
Active and ending with Inactive (R116). -/
def Obligations.ChipSelectAlternates : Prop :=
  ∀ s : State, s.Inv → s.ph = .idle →
    ∃ k, csLevels s.events = (List.replicate k [Level.active, Level.inactive]).flatten

/-- Every byte string ever sent is a read address alone, or a write address and one value byte; so the
address bytes 0x8A to 0x8F are never sent (R44, R45, R76, R77). -/
def Obligations.OnlyMappedAddressesAreSent : Prop :=
  ∀ s : State, s.Inv → ∀ bytes r, Event.xw bytes r ∈ s.events →
    (∃ a, bytes = [a] ∧ inRaddr a = true) ∨ (∃ a v, bytes = [a, v] ∧ inWaddr a = true)

/-- What a command does on the bus and answers does not depend on the bytes earlier commands received
nor on anything else in the working registers, `CFG` or the history (R20, R32, R50). -/
def Obligations.NoCommandReadsStaleData : Prop :=
  ∀ (i : Instr) (s t : State) (w : Work) (c : Cfg) (ev : List Event) (rs : List Response),
    exec i s = .next t →
    ∃ t' de dr, exec i { s with work := w, cfg := c, events := ev, responses := rs } = .next t' ∧
      t.events = s.events ++ de ∧ t'.events = ev ++ de ∧
      t.responses = s.responses ++ dr ∧ t'.responses = rs ++ dr ∧
      t'.cs = t.cs ∧ t'.ph = t.ph ∧ t'.cfgd = t.cfgd ∧ t'.chip = t.chip ∧ t'.replies = t.replies

/-- The history is only ever extended: no step takes back an event or a response, so a failure once
recorded stays recorded (R11, R176). Past a recorded refusal there is no step at all (assumption log
3). -/
def Obligations.HistoryOnlyGrows : Prop :=
  ∀ s t : State, step s = .next t →
    s.events <+: t.events ∧ s.responses <+: t.responses ∧
      (s.responses.any Response.isXfail = true → t.responses.any Response.isXfail = true)

/-- A command ends with exactly one response, and a command that hangs delivers none (R12, R33, R118).
-/
def Obligations.OneResponsePerCommand : Prop :=
  ∀ (i : Instr) (s t : State), exec i s = .next t →
    (t.ph = .idle ∧ ∃ r, t.responses = s.responses ++ [r]) ∨
    (t.waiting = true ∧ t.responses = s.responses)

/-! ## Reset -/

/-- The values the spec gives for reset, and no event; with no command offered the block stays there
(R34, R181, R182; the last is assumption log 14). -/
def Obligations.ResetValues : Prop :=
  State.reset.cs = .inactive ∧ State.reset.cfgd = false ∧ State.reset.ph = .idle ∧
  State.reset.events = [] ∧ State.reset.responses = [] ∧ step State.reset = .next State.reset

/-- A reset from outside between commands gives those values again and no event; each register of the
chip then holds some byte, of which nothing is said, and the rest of the far side is as it was; during a
frame a reset has no meaning (R34, R180, R181, R182, R183, R185; assumption log 16). -/
def Obligations.HostResetValues : Prop :=
  (∀ s : State, s.ph = .idle → ∃ t, s.hostReset = .next t ∧ t.cs = .inactive ∧
    t.cfgd = false ∧ t.ph = .idle ∧ t.events = [] ∧ t.responses = [] ∧
    t.chip = { s.chip with regs := t.chip.regs } ∧ t.chip.regs.wf = true ∧
    t.replies = s.replies ∧ t.inbox = s.inbox ∧ t.far = s.far) ∧
  (∀ s : State, s.ph ≠ .idle → s.hostReset = .refused .resetDuringFrame)

/-! ## The decoder -/

/-- The cold-junction decoder is the general decode of 2 bytes to 14 bits, register by register
(R140, R141, R142). -/
def Obligations.ColdJunctionIsTheGeneralDecode : Prop :=
  ∀ b₀ b₁ : Byte, (decCj b₀ b₁).int = dec 14 [b₀, b₁] ∧
    (decCj b₀ b₁).acc.toNat = decAcc [b₀, b₁] ∧ (decCj b₀ b₁).sgn = decSign [b₀, b₁]

/-- The thermocouple decoder is the general decode of 3 bytes to 19 bits, register by register (R140,
R141, R143). -/
def Obligations.ThermocoupleIsTheGeneralDecode : Prop :=
  ∀ b₀ b₁ b₂ : Byte, (decTc b₀ b₁ b₂).int = dec 19 [b₀, b₁, b₂] ∧
    (decTc b₀ b₁ b₂).acc.toNat = decAcc [b₀, b₁, b₂] ∧
    (decTc b₀ b₁ b₂).sgn = decSign [b₀, b₁, b₂]

/-- The sign-extension form: the decode is the top `W` bits of the container, sign bit left in, read as
a `W`-bit two's-complement number (R144). -/
def Obligations.DecodeIsSignExtension : Prop :=
  ∀ (w : Nat) (bytes : List Byte), 1 ≤ w → w ≤ 8 * bytes.length → 8 * bytes.length - w ≤ 7 →
    dec w bytes = signedOf w (container bytes >>> (8 * bytes.length - w))

/-- Both decoders are wiring: the result's bits are the container's bits above the padding (R144). -/
def Obligations.DecodersAreWiring : Prop :=
  (∀ b₀ b₁ : Byte, (decCj b₀ b₁).int = (decCjWired b₀ b₁).toInt) ∧
  (∀ b₀ b₁ b₂ : Byte, (decTc b₀ b₁ b₂).int = (decTcWired b₀ b₁ b₂).toInt)

/-- The document's closed forms in degrees Celsius, with the sign bit left in the container (R145). -/
def Obligations.ClosedFormsInDegrees : Prop :=
  (∀ b₀ b₁ : Byte, celsius 6 (decCj b₀ b₁).int =
    (((container [b₀, b₁] >>> 2 : Nat) : Rat) -
      (if 2 ^ 13 ≤ container [b₀, b₁] >>> 2 then 2 ^ 14 else 0)) / 64) ∧
  (∀ b₀ b₁ b₂ : Byte, celsius 7 (decTc b₀ b₁ b₂).int =
    (((container [b₀, b₁, b₂] >>> 5 : Nat) : Rat) -
      (if 2 ^ 18 ≤ container [b₀, b₁, b₂] >>> 5 then 2 ^ 19 else 0)) / 128)

/-- Every intermediate value fits its width, for every input of the general decode (R148). -/
def Obligations.DecodeNeverOverflows : Prop :=
  ∀ (w : Nat) (bytes : List Byte), 1 ≤ w → w ≤ 8 * bytes.length → 8 * bytes.length - w ≤ 7 →
    decAcc bytes < 2 ^ (8 * bytes.length - 1) ∧ decMagnitude w bytes < 2 ^ (w - 1) ∧
    -(2 : Int) ^ (w - 1) ≤ dec w bytes ∧ dec w bytes ≤ 2 ^ (w - 1) - 1

/-- Both decoders take every value of their range, and two samples decode alike exactly when they
differ in the padding bits only: 4 samples for each cold-junction value and 32 for each thermocouple
value (R83, R146). -/
def Obligations.DecodersAreOntoUpToPadding : Prop :=
  (∀ v : Int, -8192 ≤ v → v ≤ 8191 → ∃ b₀ b₁ : Byte, (decCj b₀ b₁).int = v) ∧
  (∀ b₀ b₁ c₀ c₁ : Byte, (decCj b₀ b₁).int = (decCj c₀ c₁).int ↔
    b₀ = c₀ ∧ b₁.toNat / 4 = c₁.toNat / 4) ∧
  (∀ v : Int, -262144 ≤ v → v ≤ 262143 → ∃ b₀ b₁ b₂ : Byte, (decTc b₀ b₁ b₂).int = v) ∧
  (∀ b₀ b₁ b₂ c₀ c₁ c₂ : Byte, (decTc b₀ b₁ b₂).int = (decTc c₀ c₁ c₂).int ↔
    b₀ = c₀ ∧ b₁ = c₁ ∧ b₂.toNat / 32 = c₂.toNat / 32)

/-- Dropping the padding rounds toward minus infinity, for negative samples too, so the decode is
monotone in the sample read as a two's-complement number (R149). -/
def Obligations.DecodeIsFloorAndMonotone : Prop :=
  (∀ (w : Nat) (bytes : List Byte), 1 ≤ w → w ≤ 8 * bytes.length → 8 * bytes.length - w ≤ 7 →
    dec w bytes =
      (signedOf (8 * bytes.length) (container bytes)) / 2 ^ (8 * bytes.length - w)) ∧
  (∀ (w : Nat) (bytes bytes' : List Byte), bytes.length = bytes'.length → 1 ≤ w →
    w ≤ 8 * bytes.length → 8 * bytes.length - w ≤ 7 →
    signedOf (8 * bytes.length) (container bytes) ≤
      signedOf (8 * bytes'.length) (container bytes') →
    dec w bytes ≤ dec w bytes')

/-- A temperature is its integer part plus its fraction field over `2^F`, with the fraction in range
(R147, R151). -/
def Obligations.TemperatureSplitsIntoWholeAndFraction : Prop :=
  ∀ (f : Nat) (i : Int), celsius f i = (wholeDegrees f i : Rat) + (fractionField f i : Rat) / 2 ^ f ∧
    0 ≤ fractionField f i ∧ fractionField f i < 2 ^ f

/-- The document's three worked samples (S3, S4, S5; R142, R143). -/
def Obligations.DocumentSamplesDecode : Prop :=
  celsius 6 (decCj 0x19 0x00).int = 25 ∧ celsius 6 (decCj 0x80 0x00).int = -128 ∧
  celsius 7 (decTc 0x19 0x00 0x00).int = 400
end

