-- ==== Sys2Proof/Laws/Decode.lean ====
section
/-! SUPPORT. The command word: the fields of a joined word, the selectors, and what the decoder can
answer. -/

namespace Sys2Proof

/-- Bits of a joined word: `B` below, then `A`, then `op`. -/
theorem getLsbD_joinFields (op : BitVec 3) (a b : Byte) (i : Nat) :
    (joinFields op a b).getLsbD i =
      if i < 8 then b.getLsbD i else if i < 16 then a.getLsbD (i - 8) else op.getLsbD (i - 16) := by
  unfold joinFields
  rw [BitVec.getLsbD_append, BitVec.getLsbD_append]
  by_cases h1 : i < 8
  · simp [h1]
  · by_cases h2 : i < 16
    · have : i - 8 < 8 := by omega
      simp [h1, h2, this]
    · have : ¬ i - 8 < 8 := by omega
      have h3 : i - 8 - 8 = i - 16 := by omega
      simp [h1, h2, this, h3]

@[simp] theorem opField_joinFields (op : BitVec 3) (a b : Byte) :
    opField (joinFields op a b) = op := by
  refine BitVec.eq_of_getLsbD_eq fun i hi => ?_
  have h1 : ¬ 16 + i < 8 := by omega
  have h2 : ¬ 16 + i < 16 := by omega
  simp only [opField, BitVec.getLsbD_extractLsb', getLsbD_joinFields, hi, h1, h2]
  simp

@[simp] theorem aField_joinFields (op : BitVec 3) (a b : Byte) :
    aField (joinFields op a b) = a := by
  refine BitVec.eq_of_getLsbD_eq fun i hi => ?_
  have h1 : ¬ 8 + i < 8 := by omega
  have h2 : 8 + i < 16 := by omega
  simp only [aField, BitVec.getLsbD_extractLsb', getLsbD_joinFields, hi, h1, h2]
  simp

@[simp] theorem bField_joinFields (op : BitVec 3) (a b : Byte) :
    bField (joinFields op a b) = b := by
  refine BitVec.eq_of_getLsbD_eq fun i hi => ?_
  simp only [bField, BitVec.getLsbD_extractLsb', getLsbD_joinFields, hi, Nat.zero_add]
  simp

/-- A word is its three fields. -/
theorem joinFields_fields (w : CommandWord) : joinFields (opField w) (aField w) (bField w) = w := by
  refine BitVec.eq_of_getLsbD_eq fun i hi => ?_
  simp only [getLsbD_joinFields, opField, aField, bField, BitVec.getLsbD_extractLsb']
  by_cases h1 : i < 8
  · simp [h1]
  · by_cases h2 : i < 16
    · have h3 : i - 8 < 8 := by omega
      have h4 : 8 + (i - 8) = i := by omega
      simp [h1, h2, h3, h4]
    · have h3 : i - 16 < 3 := by omega
      have h4 : 16 + (i - 16) = i := by omega
      simp [h1, h2, h3, h4]

theorem ThermoType.ofSelector_selector (tc : ThermoType) :
    ThermoType.ofSelector tc.selector = some tc := by cases tc <;> rfl

theorem Averaging.ofSelector_selector (g : Averaging) :
    Averaging.ofSelector g.selector = some g := by cases g <;> rfl

theorem ConvMode.ofSelector_selector (m : ConvMode) : ConvMode.ofSelector m.selector = m := by
  cases m <;> rfl

theorem ThermoType.selector_of_ofSelector {v : BitVec 4} {tc : ThermoType}
    (h : ThermoType.ofSelector v = some tc) : tc.selector = v := by
  exact (by decide : ∀ v tc, ThermoType.ofSelector v = some tc → tc.selector = v) v tc h

theorem Averaging.selector_of_ofSelector {v : BitVec 4} {g : Averaging}
    (h : Averaging.ofSelector v = some g) : g.selector = v := by
  exact (by decide : ∀ v g, Averaging.ofSelector v = some g → g.selector = v) v g h

theorem ConvMode.selector_ofSelector (v : BitVec 1) : (ConvMode.ofSelector v).selector = v := by
  revert v; decide

/-! ## The two readings of "legal" agree -/

/-- A command is well-formed exactly when the check of R168 finds no reason. -/
theorem wellFormed_iff_legal (i : Instr) :
    i.wellFormed = true ↔ Machine.illegalReason i = none := by
  cases i with
  | rdregs a l =>
    simp only [Instr.wellFormed, Machine.illegalReason, Machine.inRaddr, Bool.and_eq_true,
      decide_eq_true_eq]
    by_cases h1 : a.toNat ≤ 0x0F <;> by_cases h2 : l.toNat = 0 <;>
      by_cases h3 : l.toNat ≤ Config.maxLen <;> simp [h1, h2, h3]
    omega
  | wrreg a v => simp [Instr.wellFormed, Machine.illegalReason, Machine.inWaddr]
  | init _ _ _ => simp [Instr.wellFormed, Machine.illegalReason]
  | rdcj => simp [Instr.wellFormed, Machine.illegalReason]
  | rdtc => simp [Instr.wellFormed, Machine.illegalReason]
  | rdflt => simp [Instr.wellFormed, Machine.illegalReason]

/-! ## The parameter `MAX_LEN` -/

theorem three_le_maxLen : 3 ≤ Config.maxLen := Nat.le_add_left 3 _

theorem maxLen_le_255 : Config.maxLen ≤ 255 := by
  unfold Config.maxLen
  omega

end Sys2Proof
end

