-- ==== Sys2Proof/Laws/Memory.lean ====
section
/-! SUPPORT. The chip register space: read after write, and every operation keeps the canonical
form. -/

namespace Sys2Proof.Machine

/-! ## Read after write -/

theorem Memory.read_put_same (m : Memory) (a : Nat) (v : Byte) : (m.put a v).read a = some v := by
  induction m with
  | nil => simp [Memory.put, Memory.read]
  | cons c m ih =>
    obtain ⟨k, b⟩ := c
    simp only [Memory.put]
    split
    · simp [Memory.read]
    · split
      · simp [Memory.read]
      · rename_i h
        simpa [Memory.read, Ne.symm h] using ih

theorem Memory.read_put_other (m : Memory) {a b : Nat} (v : Byte) (h : b ≠ a) :
    (m.put a v).read b = m.read b := by
  induction m with
  | nil => simp [Memory.put, Memory.read, Ne.symm h]
  | cons c m ih =>
    obtain ⟨k, x⟩ := c
    simp only [Memory.put]
    split
    · simp [Memory.read, Ne.symm h]
    · split
      · rename_i hk
        simp [Memory.read, ← hk, Ne.symm h]
      · simp [Memory.read, ih]

/-! ## The canonical form -/

theorem Memory.wfFrom_put (m : Memory) {lo a : Nat} (v : Byte) (hlo : lo ≤ a) (ha : a < nRegs)
    (hm : m.wfFrom lo = true) : (m.put a v).wfFrom lo = true := by
  induction m generalizing lo with
  | nil => simp only [Memory.wfFrom, decide_eq_true_eq] at hm; omega
  | cons c m ih =>
    obtain ⟨k, b⟩ := c
    simp only [Memory.wfFrom, Bool.and_eq_true, decide_eq_true_eq] at hm
    obtain ⟨rfl, hm⟩ := hm
    simp only [Memory.put, Nat.not_lt.2 hlo, if_false]
    split
    · rename_i h; simpa [Memory.wfFrom, h] using hm
    · simpa [Memory.wfFrom] using ih (by omega) hm

theorem Memory.wf_put (m : Memory) {a : Nat} (v : Byte) (ha : a < nRegs) (hm : m.wf = true) :
    (m.put a v).wf = true :=
  Memory.wfFrom_put m v (Nat.zero_le a) ha hm

/-- The sixteen registers, whatever they hold, are in the canonical form. -/
theorem Memory.wf_ofFn (f : Nat → Byte) : (Memory.ofFn f).wf = true := rfl

theorem Memory.read_isSome_from (m : Memory) {lo k : Nat} (hm : m.wfFrom lo = true) (hlo : lo ≤ k)
    (hk : k < nRegs) : ∃ b, m.read k = some b := by
  induction m generalizing lo with
  | nil => simp only [Memory.wfFrom, decide_eq_true_eq] at hm; omega
  | cons c m ih =>
    obtain ⟨x, b⟩ := c
    simp only [Memory.wfFrom, Bool.and_eq_true, decide_eq_true_eq] at hm
    obtain ⟨rfl, hm⟩ := hm
    simp only [Memory.read]
    split
    · exact ⟨b, rfl⟩
    · exact ih hm (by omega)

/-- Every register of the map holds a byte (R42, R61). -/
theorem Memory.read_isSome (m : Memory) (hm : m.wf = true) {k : Nat} (hk : k < nRegs) :
    ∃ b, m.read k = some b :=
  m.read_isSome_from hm (Nat.zero_le k) hk

/-! ## The reference chip keeps it -/

theorem convertOne_wf (m : Memory) (cell : Host.Cell) (hm : m.wf = true) :
    (convertOne m cell).wf = true := by
  simp only [convertOne]
  split
  · exact m.wf_put _ (by simp only [nRegs]; omega) hm
  · exact hm

theorem foldl_convertOne_wf (batch : List Host.Cell) (m : Memory) (hm : m.wf = true) :
    Memory.wf (batch.foldl convertOne m) = true := by
  induction batch generalizing m with
  | nil => exact hm
  | cons c batch ih => exact ih _ (convertOne_wf m c hm)

theorem Chip.convert_wf (c : Chip) (h : c.regs.wf = true) : c.convert.regs.wf = true := by
  simp only [Chip.convert]
  split
  · exact h
  · exact foldl_convertOne_wf _ _ h

theorem Chip.onSelect_wf (l : Level) (c : Chip) (h : c.regs.wf = true) :
    (c.onSelect l).regs.wf = true := by
  cases l with
  | inactive => exact h
  | active => exact c.convert_wf h

theorem Chip.onWrite_wf (bytes : List Byte) (d : Option Byte) (c : Chip) (h : c.regs.wf = true) :
    (c.onWrite bytes d).regs.wf = true := by
  unfold Chip.onWrite
  split
  · split <;> exact h
  · split
    · dsimp only
      split
      · rename_i hk
        exact c.regs.wf_put _ (by simp only [lastWritable] at hk; simp only [nRegs]; omega) h
      · exact h
    · exact h
  · exact h

theorem Chip.onRead_wf (k : Nat) (c : Chip) (h : c.regs.wf = true) :
    (c.onRead k).regs.wf = true := by
  unfold Chip.onRead
  split <;> exact h

theorem onChip_wf (f : Chip → Chip) (s : State) (hf : ∀ c, c.regs.wf = true → (f c).regs.wf = true)
    (h : s.chip.regs.wf = true) : (s.onChip f).regs.wf = true := by
  unfold State.onChip
  cases s.far with
  | oracle => exact h
  | refChip => exact hf _ h

end Sys2Proof.Machine
end

