-- ==== Sys2Proof/Laws/State.lean ====
section
/-! SUPPORT. Every update of the state, field by field, so that no later proof unfolds a record
update. -/

namespace Sys2Proof.Machine

variable (s : State)

/-! ## setPh -/

@[simp] theorem setPh_cs (p : Phase) : (s.setPh p).cs = s.cs := rfl
@[simp] theorem setPh_cfgd (p : Phase) : (s.setPh p).cfgd = s.cfgd := rfl
@[simp] theorem setPh_cfg (p : Phase) : (s.setPh p).cfg = s.cfg := rfl
@[simp] theorem setPh_ph (p : Phase) : (s.setPh p).ph = p := rfl
@[simp] theorem setPh_work (p : Phase) : (s.setPh p).work = s.work := rfl
@[simp] theorem setPh_cur (p : Phase) : (s.setPh p).cur = s.cur := rfl
@[simp] theorem setPh_waiting (p : Phase) : (s.setPh p).waiting = s.waiting := rfl
@[simp] theorem setPh_inbox (p : Phase) : (s.setPh p).inbox = s.inbox := rfl
@[simp] theorem setPh_replies (p : Phase) : (s.setPh p).replies = s.replies := rfl
@[simp] theorem setPh_far (p : Phase) : (s.setPh p).far = s.far := rfl
@[simp] theorem setPh_chip (p : Phase) : (s.setPh p).chip = s.chip := rfl
@[simp] theorem setPh_events (p : Phase) : (s.setPh p).events = s.events := rfl
@[simp] theorem setPh_responses (p : Phase) : (s.setPh p).responses = s.responses := rfl
@[simp] theorem setPh_tick (p : Phase) : (s.setPh p).tick = s.tick := rfl

/-! ## setSeq -/

@[simp] theorem setSeq_cs (q : Fin 2) : (s.setSeq q).cs = s.cs := rfl
@[simp] theorem setSeq_cfgd (q : Fin 2) : (s.setSeq q).cfgd = s.cfgd := rfl
@[simp] theorem setSeq_cfg (q : Fin 2) : (s.setSeq q).cfg = s.cfg := rfl
@[simp] theorem setSeq_ph (q : Fin 2) : (s.setSeq q).ph = s.ph := rfl
@[simp] theorem setSeq_work (q : Fin 2) : (s.setSeq q).work = { s.work with seq := q } := rfl
@[simp] theorem setSeq_cur (q : Fin 2) : (s.setSeq q).cur = s.cur := rfl
@[simp] theorem setSeq_waiting (q : Fin 2) : (s.setSeq q).waiting = s.waiting := rfl
@[simp] theorem setSeq_inbox (q : Fin 2) : (s.setSeq q).inbox = s.inbox := rfl
@[simp] theorem setSeq_replies (q : Fin 2) : (s.setSeq q).replies = s.replies := rfl
@[simp] theorem setSeq_far (q : Fin 2) : (s.setSeq q).far = s.far := rfl
@[simp] theorem setSeq_chip (q : Fin 2) : (s.setSeq q).chip = s.chip := rfl
@[simp] theorem setSeq_events (q : Fin 2) : (s.setSeq q).events = s.events := rfl
@[simp] theorem setSeq_responses (q : Fin 2) : (s.setSeq q).responses = s.responses := rfl
@[simp] theorem setSeq_tick (q : Fin 2) : (s.setSeq q).tick = s.tick := rfl

/-! ## setN -/

@[simp] theorem setN_cs (n : Nat) : (s.setN n).cs = s.cs := rfl
@[simp] theorem setN_cfgd (n : Nat) : (s.setN n).cfgd = s.cfgd := rfl
@[simp] theorem setN_cfg (n : Nat) : (s.setN n).cfg = s.cfg := rfl
@[simp] theorem setN_ph (n : Nat) : (s.setN n).ph = s.ph := rfl
@[simp] theorem setN_work (n : Nat) : (s.setN n).work = { s.work with n := n } := rfl
@[simp] theorem setN_cur (n : Nat) : (s.setN n).cur = s.cur := rfl
@[simp] theorem setN_waiting (n : Nat) : (s.setN n).waiting = s.waiting := rfl
@[simp] theorem setN_inbox (n : Nat) : (s.setN n).inbox = s.inbox := rfl
@[simp] theorem setN_replies (n : Nat) : (s.setN n).replies = s.replies := rfl
@[simp] theorem setN_far (n : Nat) : (s.setN n).far = s.far := rfl
@[simp] theorem setN_chip (n : Nat) : (s.setN n).chip = s.chip := rfl
@[simp] theorem setN_events (n : Nat) : (s.setN n).events = s.events := rfl
@[simp] theorem setN_responses (n : Nat) : (s.setN n).responses = s.responses := rfl
@[simp] theorem setN_tick (n : Nat) : (s.setN n).tick = s.tick := rfl

/-! ## setTx0 -/

@[simp] theorem setTx0_cs (a : Byte) : (s.setTx0 a).cs = s.cs := rfl
@[simp] theorem setTx0_cfgd (a : Byte) : (s.setTx0 a).cfgd = s.cfgd := rfl
@[simp] theorem setTx0_cfg (a : Byte) : (s.setTx0 a).cfg = s.cfg := rfl
@[simp] theorem setTx0_ph (a : Byte) : (s.setTx0 a).ph = s.ph := rfl
@[simp] theorem setTx0_work (a : Byte) : (s.setTx0 a).work = { s.work with tx0 := a } := rfl
@[simp] theorem setTx0_cur (a : Byte) : (s.setTx0 a).cur = s.cur := rfl
@[simp] theorem setTx0_waiting (a : Byte) : (s.setTx0 a).waiting = s.waiting := rfl
@[simp] theorem setTx0_inbox (a : Byte) : (s.setTx0 a).inbox = s.inbox := rfl
@[simp] theorem setTx0_replies (a : Byte) : (s.setTx0 a).replies = s.replies := rfl
@[simp] theorem setTx0_far (a : Byte) : (s.setTx0 a).far = s.far := rfl
@[simp] theorem setTx0_chip (a : Byte) : (s.setTx0 a).chip = s.chip := rfl
@[simp] theorem setTx0_events (a : Byte) : (s.setTx0 a).events = s.events := rfl
@[simp] theorem setTx0_responses (a : Byte) : (s.setTx0 a).responses = s.responses := rfl
@[simp] theorem setTx0_tick (a : Byte) : (s.setTx0 a).tick = s.tick := rfl

/-! ## setTx1 -/

@[simp] theorem setTx1_cs (v : Byte) : (s.setTx1 v).cs = s.cs := rfl
@[simp] theorem setTx1_cfgd (v : Byte) : (s.setTx1 v).cfgd = s.cfgd := rfl
@[simp] theorem setTx1_cfg (v : Byte) : (s.setTx1 v).cfg = s.cfg := rfl
@[simp] theorem setTx1_ph (v : Byte) : (s.setTx1 v).ph = s.ph := rfl
@[simp] theorem setTx1_work (v : Byte) : (s.setTx1 v).work = { s.work with tx1 := v } := rfl
@[simp] theorem setTx1_cur (v : Byte) : (s.setTx1 v).cur = s.cur := rfl
@[simp] theorem setTx1_waiting (v : Byte) : (s.setTx1 v).waiting = s.waiting := rfl
@[simp] theorem setTx1_inbox (v : Byte) : (s.setTx1 v).inbox = s.inbox := rfl
@[simp] theorem setTx1_replies (v : Byte) : (s.setTx1 v).replies = s.replies := rfl
@[simp] theorem setTx1_far (v : Byte) : (s.setTx1 v).far = s.far := rfl
@[simp] theorem setTx1_chip (v : Byte) : (s.setTx1 v).chip = s.chip := rfl
@[simp] theorem setTx1_events (v : Byte) : (s.setTx1 v).events = s.events := rfl
@[simp] theorem setTx1_responses (v : Byte) : (s.setTx1 v).responses = s.responses := rfl
@[simp] theorem setTx1_tick (v : Byte) : (s.setTx1 v).tick = s.tick := rfl

/-! ## setWres -/

@[simp] theorem setWres_cs (r : XRes) : (s.setWres r).cs = s.cs := rfl
@[simp] theorem setWres_cfgd (r : XRes) : (s.setWres r).cfgd = s.cfgd := rfl
@[simp] theorem setWres_cfg (r : XRes) : (s.setWres r).cfg = s.cfg := rfl
@[simp] theorem setWres_ph (r : XRes) : (s.setWres r).ph = s.ph := rfl
@[simp] theorem setWres_work (r : XRes) : (s.setWres r).work = { s.work with wres := r } := rfl
@[simp] theorem setWres_cur (r : XRes) : (s.setWres r).cur = s.cur := rfl
@[simp] theorem setWres_waiting (r : XRes) : (s.setWres r).waiting = s.waiting := rfl
@[simp] theorem setWres_inbox (r : XRes) : (s.setWres r).inbox = s.inbox := rfl
@[simp] theorem setWres_replies (r : XRes) : (s.setWres r).replies = s.replies := rfl
@[simp] theorem setWres_far (r : XRes) : (s.setWres r).far = s.far := rfl
@[simp] theorem setWres_chip (r : XRes) : (s.setWres r).chip = s.chip := rfl
@[simp] theorem setWres_events (r : XRes) : (s.setWres r).events = s.events := rfl
@[simp] theorem setWres_responses (r : XRes) : (s.setWres r).responses = s.responses := rfl
@[simp] theorem setWres_tick (r : XRes) : (s.setWres r).tick = s.tick := rfl

/-! ## driveCs -/

@[simp] theorem driveCs_cs (l : Level) : (s.driveCs l).cs = l := rfl
@[simp] theorem driveCs_cfgd (l : Level) : (s.driveCs l).cfgd = s.cfgd := rfl
@[simp] theorem driveCs_cfg (l : Level) : (s.driveCs l).cfg = s.cfg := rfl
@[simp] theorem driveCs_ph (l : Level) : (s.driveCs l).ph = s.ph := rfl
@[simp] theorem driveCs_work (l : Level) : (s.driveCs l).work = s.work := rfl
@[simp] theorem driveCs_cur (l : Level) : (s.driveCs l).cur = s.cur := rfl
@[simp] theorem driveCs_waiting (l : Level) : (s.driveCs l).waiting = s.waiting := rfl
@[simp] theorem driveCs_inbox (l : Level) : (s.driveCs l).inbox = s.inbox := rfl
@[simp] theorem driveCs_replies (l : Level) : (s.driveCs l).replies = s.replies := rfl
@[simp] theorem driveCs_far (l : Level) : (s.driveCs l).far = s.far := rfl
@[simp] theorem driveCs_chip (l : Level) : (s.driveCs l).chip = s.onChip (Chip.onSelect l) := rfl
@[simp] theorem driveCs_events (l : Level) : (s.driveCs l).events = s.events ++ [.cs l] := rfl
@[simp] theorem driveCs_responses (l : Level) : (s.driveCs l).responses = s.responses := rfl
@[simp] theorem driveCs_tick (l : Level) : (s.driveCs l).tick = s.tick := rfl

/-! ## storeRx -/

@[simp] theorem storeRx_cs (bs : List Byte) : (s.storeRx bs).cs = s.cs := rfl
@[simp] theorem storeRx_cfgd (bs : List Byte) : (s.storeRx bs).cfgd = s.cfgd := rfl
@[simp] theorem storeRx_cfg (bs : List Byte) : (s.storeRx bs).cfg = s.cfg := rfl
@[simp] theorem storeRx_ph (bs : List Byte) : (s.storeRx bs).ph = s.ph := rfl
@[simp] theorem storeRx_work (bs : List Byte) : (s.storeRx bs).work = { s.work with rx := rxHolding s.tick bs } := rfl
@[simp] theorem storeRx_cur (bs : List Byte) : (s.storeRx bs).cur = s.cur := rfl
@[simp] theorem storeRx_waiting (bs : List Byte) : (s.storeRx bs).waiting = s.waiting := rfl
@[simp] theorem storeRx_inbox (bs : List Byte) : (s.storeRx bs).inbox = s.inbox := rfl
@[simp] theorem storeRx_replies (bs : List Byte) : (s.storeRx bs).replies = s.replies := rfl
@[simp] theorem storeRx_far (bs : List Byte) : (s.storeRx bs).far = s.far := rfl
@[simp] theorem storeRx_chip (bs : List Byte) : (s.storeRx bs).chip = s.chip := rfl
@[simp] theorem storeRx_events (bs : List Byte) : (s.storeRx bs).events = s.events := rfl
@[simp] theorem storeRx_responses (bs : List Byte) : (s.storeRx bs).responses = s.responses := rfl
@[simp] theorem storeRx_tick (bs : List Byte) : (s.storeRx bs).tick = s.tick + 1 := rfl

/-! ## noteFailure -/

@[simp] theorem noteFailure_cs (e : XErr) (p : FailPhase) : (s.noteFailure e p).cs = s.cs := rfl
@[simp] theorem noteFailure_cfgd (e : XErr) (p : FailPhase) : (s.noteFailure e p).cfgd = s.cfgd := rfl
@[simp] theorem noteFailure_cfg (e : XErr) (p : FailPhase) : (s.noteFailure e p).cfg = s.cfg := rfl
@[simp] theorem noteFailure_ph (e : XErr) (p : FailPhase) : (s.noteFailure e p).ph = s.ph := rfl
@[simp] theorem noteFailure_work (e : XErr) (p : FailPhase) : (s.noteFailure e p).work = { s.work with err := true, xerr := e, fph := p } := rfl
@[simp] theorem noteFailure_cur (e : XErr) (p : FailPhase) : (s.noteFailure e p).cur = s.cur := rfl
@[simp] theorem noteFailure_waiting (e : XErr) (p : FailPhase) : (s.noteFailure e p).waiting = s.waiting := rfl
@[simp] theorem noteFailure_inbox (e : XErr) (p : FailPhase) : (s.noteFailure e p).inbox = s.inbox := rfl
@[simp] theorem noteFailure_replies (e : XErr) (p : FailPhase) : (s.noteFailure e p).replies = s.replies := rfl
@[simp] theorem noteFailure_far (e : XErr) (p : FailPhase) : (s.noteFailure e p).far = s.far := rfl
@[simp] theorem noteFailure_chip (e : XErr) (p : FailPhase) : (s.noteFailure e p).chip = s.chip := rfl
@[simp] theorem noteFailure_events (e : XErr) (p : FailPhase) : (s.noteFailure e p).events = s.events := rfl
@[simp] theorem noteFailure_responses (e : XErr) (p : FailPhase) : (s.noteFailure e p).responses = s.responses := rfl
@[simp] theorem noteFailure_tick (e : XErr) (p : FailPhase) : (s.noteFailure e p).tick = s.tick := rfl

/-! ## accept -/

@[simp] theorem accept_cs (i : Instr) : (s.accept i).cs = s.cs := rfl
@[simp] theorem accept_cfgd (i : Instr) : (s.accept i).cfgd = s.cfgd := rfl
@[simp] theorem accept_cfg (i : Instr) : (s.accept i).cfg = s.cfg := rfl
@[simp] theorem accept_ph (i : Instr) : (s.accept i).ph = s.ph := rfl
@[simp] theorem accept_work (i : Instr) : (s.accept i).work = { s.work with err := false } := rfl
@[simp] theorem accept_cur (i : Instr) : (s.accept i).cur = some i := rfl
@[simp] theorem accept_waiting (i : Instr) : (s.accept i).waiting = false := rfl
@[simp] theorem accept_inbox (i : Instr) : (s.accept i).inbox = s.inbox := rfl
@[simp] theorem accept_replies (i : Instr) : (s.accept i).replies = s.replies := rfl
@[simp] theorem accept_far (i : Instr) : (s.accept i).far = s.far := rfl
@[simp] theorem accept_chip (i : Instr) : (s.accept i).chip = s.chip := rfl
@[simp] theorem accept_events (i : Instr) : (s.accept i).events = s.events := rfl
@[simp] theorem accept_responses (i : Instr) : (s.accept i).responses = s.responses := rfl
@[simp] theorem accept_tick (i : Instr) : (s.accept i).tick = s.tick := rfl

/-! ## refuse -/

@[simp] theorem refuse_cs (r : Reason) : (s.refuse r).cs = s.cs := rfl
@[simp] theorem refuse_cfgd (r : Reason) : (s.refuse r).cfgd = s.cfgd := rfl
@[simp] theorem refuse_cfg (r : Reason) : (s.refuse r).cfg = s.cfg := rfl
@[simp] theorem refuse_ph (r : Reason) : (s.refuse r).ph = s.ph := rfl
@[simp] theorem refuse_work (r : Reason) : (s.refuse r).work = s.work := rfl
@[simp] theorem refuse_cur (r : Reason) : (s.refuse r).cur = s.cur := rfl
@[simp] theorem refuse_waiting (r : Reason) : (s.refuse r).waiting = s.waiting := rfl
@[simp] theorem refuse_inbox (r : Reason) : (s.refuse r).inbox = s.inbox := rfl
@[simp] theorem refuse_replies (r : Reason) : (s.refuse r).replies = s.replies := rfl
@[simp] theorem refuse_far (r : Reason) : (s.refuse r).far = s.far := rfl
@[simp] theorem refuse_chip (r : Reason) : (s.refuse r).chip = s.chip := rfl
@[simp] theorem refuse_events (r : Reason) : (s.refuse r).events = s.events := rfl
@[simp] theorem refuse_responses (r : Reason) : (s.refuse r).responses = s.responses ++ [.refused r] := rfl
@[simp] theorem refuse_tick (r : Reason) : (s.refuse r).tick = s.tick := rfl

/-! ## respond -/

@[simp] theorem respond_cs (r : Response) : (s.respond r).cs = s.cs := rfl
@[simp] theorem respond_cfgd (r : Response) : (s.respond r).cfgd = s.cfgd := rfl
@[simp] theorem respond_cfg (r : Response) : (s.respond r).cfg = s.cfg := rfl
@[simp] theorem respond_ph (r : Response) : (s.respond r).ph = .idle := rfl
@[simp] theorem respond_work (r : Response) : (s.respond r).work = Work.unspecified s.tick := rfl
@[simp] theorem respond_cur (r : Response) : (s.respond r).cur = none := rfl
@[simp] theorem respond_waiting (r : Response) : (s.respond r).waiting = s.waiting := rfl
@[simp] theorem respond_inbox (r : Response) : (s.respond r).inbox = s.inbox := rfl
@[simp] theorem respond_replies (r : Response) : (s.respond r).replies = s.replies := rfl
@[simp] theorem respond_far (r : Response) : (s.respond r).far = s.far := rfl
@[simp] theorem respond_chip (r : Response) : (s.respond r).chip = s.chip := rfl
@[simp] theorem respond_events (r : Response) : (s.respond r).events = s.events := rfl
@[simp] theorem respond_responses (r : Response) : (s.respond r).responses = s.responses ++ [r] := rfl
@[simp] theorem respond_tick (r : Response) : (s.respond r).tick = s.tick + 1 := rfl

/-! ## loadDecoded -/

@[simp] theorem loadDecoded_cs (d : Decoded) : (s.loadDecoded d).cs = s.cs := rfl
@[simp] theorem loadDecoded_cfgd (d : Decoded) : (s.loadDecoded d).cfgd = s.cfgd := rfl
@[simp] theorem loadDecoded_cfg (d : Decoded) : (s.loadDecoded d).cfg = s.cfg := rfl
@[simp] theorem loadDecoded_ph (d : Decoded) : (s.loadDecoded d).ph = s.ph := rfl
@[simp] theorem loadDecoded_work (d : Decoded) : (s.loadDecoded d).work = { s.work with acc := d.acc, sgn := d.sgn, val := BitVec.ofInt 19 d.int } := rfl
@[simp] theorem loadDecoded_cur (d : Decoded) : (s.loadDecoded d).cur = s.cur := rfl
@[simp] theorem loadDecoded_waiting (d : Decoded) : (s.loadDecoded d).waiting = s.waiting := rfl
@[simp] theorem loadDecoded_inbox (d : Decoded) : (s.loadDecoded d).inbox = s.inbox := rfl
@[simp] theorem loadDecoded_replies (d : Decoded) : (s.loadDecoded d).replies = s.replies := rfl
@[simp] theorem loadDecoded_far (d : Decoded) : (s.loadDecoded d).far = s.far := rfl
@[simp] theorem loadDecoded_chip (d : Decoded) : (s.loadDecoded d).chip = s.chip := rfl
@[simp] theorem loadDecoded_events (d : Decoded) : (s.loadDecoded d).events = s.events := rfl
@[simp] theorem loadDecoded_responses (d : Decoded) : (s.loadDecoded d).responses = s.responses := rfl
@[simp] theorem loadDecoded_tick (d : Decoded) : (s.loadDecoded d).tick = s.tick := rfl

/-! ## callXw -/

@[simp] theorem callXw_answer (bs : List Byte) : (s.callXw bs).1 = writeAnswer (s.replyAt 0) := rfl
@[simp] theorem callXw_cs (bs : List Byte) : (s.callXw bs).2.cs = s.cs := rfl
@[simp] theorem callXw_cfgd (bs : List Byte) : (s.callXw bs).2.cfgd = s.cfgd := rfl
@[simp] theorem callXw_cfg (bs : List Byte) : (s.callXw bs).2.cfg = s.cfg := rfl
@[simp] theorem callXw_ph (bs : List Byte) : (s.callXw bs).2.ph = s.ph := rfl
@[simp] theorem callXw_work (bs : List Byte) : (s.callXw bs).2.work = s.work := rfl
@[simp] theorem callXw_cur (bs : List Byte) : (s.callXw bs).2.cur = s.cur := rfl
@[simp] theorem callXw_waiting (bs : List Byte) : (s.callXw bs).2.waiting = (writeAnswer (s.replyAt 0)).isPending := rfl
@[simp] theorem callXw_inbox (bs : List Byte) : (s.callXw bs).2.inbox = s.inbox := rfl
@[simp] theorem callXw_replies (bs : List Byte) : (s.callXw bs).2.replies = s.replies.tail := rfl
@[simp] theorem callXw_far (bs : List Byte) : (s.callXw bs).2.far = s.far := rfl
@[simp] theorem callXw_chip (bs : List Byte) : (s.callXw bs).2.chip = s.onChip (Chip.onWrite bs (s.lostByte (writeAnswer (s.replyAt 0)))) := rfl
@[simp] theorem callXw_events (bs : List Byte) : (s.callXw bs).2.events = s.events ++ [.xw bs (writeAnswer (s.replyAt 0))] := rfl
@[simp] theorem callXw_responses (bs : List Byte) : (s.callXw bs).2.responses = s.responses := rfl
@[simp] theorem callXw_tick (bs : List Byte) : (s.callXw bs).2.tick = s.tick + 1 := rfl

/-! ## callXr -/

@[simp] theorem callXr_answer (k : Nat) : (s.callXr k).1 = s.readAnswer k (s.replyAt 0) := rfl
@[simp] theorem callXr_cs (k : Nat) : (s.callXr k).2.cs = s.cs := rfl
@[simp] theorem callXr_cfgd (k : Nat) : (s.callXr k).2.cfgd = s.cfgd := rfl
@[simp] theorem callXr_cfg (k : Nat) : (s.callXr k).2.cfg = s.cfg := rfl
@[simp] theorem callXr_ph (k : Nat) : (s.callXr k).2.ph = s.ph := rfl
@[simp] theorem callXr_work (k : Nat) : (s.callXr k).2.work = s.work := rfl
@[simp] theorem callXr_cur (k : Nat) : (s.callXr k).2.cur = s.cur := rfl
@[simp] theorem callXr_waiting (k : Nat) : (s.callXr k).2.waiting = (s.readAnswer k (s.replyAt 0)).isPending := rfl
@[simp] theorem callXr_inbox (k : Nat) : (s.callXr k).2.inbox = s.inbox := rfl
@[simp] theorem callXr_replies (k : Nat) : (s.callXr k).2.replies = s.replies.tail := rfl
@[simp] theorem callXr_far (k : Nat) : (s.callXr k).2.far = s.far := rfl
@[simp] theorem callXr_chip (k : Nat) : (s.callXr k).2.chip = s.onChip (Chip.onRead k) := rfl
@[simp] theorem callXr_events (k : Nat) : (s.callXr k).2.events = s.events ++ [.xr k (s.readAnswer k (s.replyAt 0))] := rfl
@[simp] theorem callXr_responses (k : Nat) : (s.callXr k).2.responses = s.responses := rfl
@[simp] theorem callXr_tick (k : Nat) : (s.callXr k).2.tick = s.tick + 1 := rfl

/-! ## The releases and the ends of a command, over the updates above -/

theorem release_eq : s.release = (s.setPh .rel).driveCs .inactive := rfl

theorem raiseXfail_eq (q : Fin 2) :
    s.raiseXfail q = s.respond (.xfail { frame := q, phase := s.work.fph, xerr := s.work.xerr }) :=
  rfl

theorem finishInit_eq (c : Cfg) :
    s.finishInit c = ({ s with cfg := c, cfgd := true } : State).respond (.ok .none) := rfl

theorem finishData_eq : s.finishData = s.respond (.ok (.data (s.work.rx.take s.work.n))) := rfl

theorem finishWres_eq : s.finishWres = s.respond (.ok (.wres s.work.wres)) := rfl

theorem finishVal_eq : s.finishVal = s.respond (.ok (.val s.work.val)) := rfl

/-! ## Reset -/

@[simp] theorem reset_cs : State.reset.cs = .inactive := rfl
@[simp] theorem reset_cfgd : State.reset.cfgd = false := rfl
@[simp] theorem reset_ph : State.reset.ph = .idle := rfl
@[simp] theorem reset_cur : State.reset.cur = none := rfl
@[simp] theorem reset_waiting : State.reset.waiting = false := rfl
@[simp] theorem reset_events : State.reset.events = [] := rfl
@[simp] theorem reset_responses : State.reset.responses = [] := rfl
@[simp] theorem reset_far : State.reset.far = .oracle := rfl
@[simp] theorem reset_regs : State.reset.chip.regs = Memory.ofFn Config.powerOn := rfl

end Sys2Proof.Machine
end

