-- ==== Sys2Proof/Laws/Ops.lean ====
section
/-! SUPPORT. What each shared operation does, said once: replies, reads, the two frame primitives by
the replies they meet, and the template of a command. -/

namespace Sys2Proof.Machine

/-! ## Replies -/

/-- A reply depends on the listed replies, on what stands behind them, and on the draw number. -/
theorem replyAt_congr {s t : State} (hr : t.replies = s.replies) (hf : t.far = s.far)
    (ht : t.tick = s.tick) (k : Nat) : t.replyAt k = s.replyAt k := by
  simp only [State.replyAt, hr, hf, ht]

@[simp] theorem setPh_replyAt (s : State) (p : Phase) (k : Nat) :
    (s.setPh p).replyAt k = s.replyAt k := rfl
@[simp] theorem setSeq_replyAt (s : State) (q : Fin 2) (k : Nat) :
    (s.setSeq q).replyAt k = s.replyAt k := rfl
@[simp] theorem setN_replyAt (s : State) (n k : Nat) : (s.setN n).replyAt k = s.replyAt k := rfl
@[simp] theorem setTx0_replyAt (s : State) (a : Byte) (k : Nat) :
    (s.setTx0 a).replyAt k = s.replyAt k := rfl
@[simp] theorem setTx1_replyAt (s : State) (v : Byte) (k : Nat) :
    (s.setTx1 v).replyAt k = s.replyAt k := rfl
@[simp] theorem setWres_replyAt (s : State) (r : XRes) (k : Nat) :
    (s.setWres r).replyAt k = s.replyAt k := rfl
@[simp] theorem driveCs_replyAt (s : State) (l : Level) (k : Nat) :
    (s.driveCs l).replyAt k = s.replyAt k := rfl
@[simp] theorem accept_replyAt (s : State) (i : Instr) (k : Nat) :
    (s.accept i).replyAt k = s.replyAt k := rfl
@[simp] theorem release_replyAt (s : State) (k : Nat) : s.release.replyAt k = s.replyAt k := rfl

/-- A call takes one reply. -/
@[simp] theorem callXw_replyAt (s : State) (bs : List Byte) (k : Nat) :
    (s.callXw bs).2.replyAt k = s.replyAt (k + 1) := by
  simp only [State.replyAt, callXw_replies, callXw_far, callXw_tick, List.getElem?_tail]
  rw [Nat.add_right_comm, Nat.add_assoc]

/-- A call takes one reply. -/
@[simp] theorem callXr_replyAt (s : State) (n k : Nat) :
    (s.callXr n).2.replyAt k = s.replyAt (k + 1) := by
  simp only [State.replyAt, callXr_replies, callXr_far, callXr_tick, List.getElem?_tail]
  rw [Nat.add_right_comm, Nat.add_assoc]

/-! ## Reads -/

/-- `XR(k)` answers exactly `k` bytes (R10). -/
@[simp] theorem servedBytes_length (s : State) (listed : List Byte) (k : Nat) :
    (s.servedBytes listed k).length = k := by
  simp [State.servedBytes]

/-- A listed byte is the byte served. -/
theorem servedByte_listed (s : State) (listed : List Byte) (i : Nat) (h : i < listed.length) :
    s.servedByte listed i = listed[i] := by
  simp [State.servedByte, h]

/-- A reply that lists exactly the bytes asked for serves them. -/
theorem servedBytes_all (s : State) (listed : List Byte) :
    s.servedBytes listed listed.length = listed := by
  apply List.ext_getElem
  · simp
  · intro i h1 h2
    simp [State.servedBytes, servedByte_listed, h2]

/-- `RXBUF` has `MAX_LEN` entries whenever it was given no more (R27). -/
theorem rxHolding_length (t : Nat) (bytes : List Byte) (h : bytes.length ≤ Config.maxLen) :
    (rxHolding t bytes).length = Config.maxLen := by
  simp only [rxHolding, List.length_append, List.length_map, List.length_range]
  omega

/-- The first entries of `RXBUF` are the bytes received. -/
@[simp] theorem take_rxHolding (t : Nat) (bytes : List Byte) :
    (rxHolding t bytes).take bytes.length = bytes := by
  simp [rxHolding]

theorem getElem?_rxHolding (t : Nat) (bytes : List Byte) (i : Nat) (h : i < bytes.length) :
    (rxHolding t bytes)[i]? = some bytes[i] := by
  simp [rxHolding, List.getElem?_append_left h, h]

/-- The working registers keep the width of `RXBUF` and the bound of `n` when they turn
unspecified. -/
@[simp] theorem unspecified_rx_length (t : Nat) :
    (Work.unspecified t).rx.length = Config.maxLen := rxHolding_length t [] (Nat.zero_le _)

theorem unspecified_n_le (t : Nat) : (Work.unspecified t).n ≤ Config.maxLen :=
  Nat.le_of_lt_succ (Nat.mod_lt _ (Nat.succ_pos _))

/-! ## The frame primitives, by the replies they meet -/

/-- The state in which the `XW` of a read frame is made (R111). -/
def readReady (a : Byte) (s : State) : State :=
  (((s.setPh .sel).driveCs .active).setPh .addr).setTx0 a

/-- The state in which the `XW` of a write frame is made (R112). -/
def writeReady (a v : Byte) (s : State) : State :=
  ((((s.setPh .sel).driveCs .active).setPh .addr).setTx0 a).setTx1 v

@[simp] theorem readReady_replyAt (a : Byte) (s : State) (k : Nat) :
    (readReady a s).replyAt k = s.replyAt k := rfl

@[simp] theorem writeReady_replyAt (a v : Byte) (s : State) (k : Nat) :
    (writeReady a v s).replyAt k = s.replyAt k := rfl

/-- The state in which the `XR` of a read frame is made (R111). -/
def readSent (a : Byte) (s : State) : State := ((readReady a s).callXw [a]).2.setPh .data

@[simp] theorem readSent_replyAt (a : Byte) (s : State) (k : Nat) :
    (readSent a s).replyAt k = s.replyAt (k + 1) := by
  simp [readSent]

theorem rframe_addr_hang (a : Byte) (n : Nat) (s : State) (h : s.replyAt 0 = .never) :
    rframe a n s = (.hang, ((readReady a s).callXw [a]).2) := by
  have h' : ((readReady a s).callXw [a]).1 = .pending := by simp [h, writeAnswer]
  have e : (readReady a s).callXw [a] = (.pending, ((readReady a s).callXw [a]).2) := by
    rw [← h']
  show (match (readReady a s).callXw [a] with | (.pending, s₂) => _ | (.fail e, s₂) => _ | (.ok _, s₂) => _) = _
  rw [e]

theorem rframe_addr_fail (a : Byte) (n : Nat) (s : State) (e : XErr) (h : s.replyAt 0 = .fail e) :
    rframe a n s = (.fail, (((readReady a s).callXw [a]).2.noteFailure e .addr).release) := by
  have h' : ((readReady a s).callXw [a]).1 = .fail e := by simp [h, writeAnswer]
  have e' : (readReady a s).callXw [a] = (.fail e, ((readReady a s).callXw [a]).2) := by
    rw [← h']
  show (match (readReady a s).callXw [a] with | (.pending, s₂) => _ | (.fail e, s₂) => _ | (.ok _, s₂) => _) = _
  rw [e']

/-- After a good address byte the frame goes on with its `XR`. -/
theorem rframe_addr_ok (a : Byte) (n : Nat) (s : State) (r : XRes) (b : List Byte)
    (h : s.replyAt 0 = .ok r b) :
    rframe a n s =
      match (readSent a s).callXr n with
      | (.pending, s₃) => (.hang, s₃)
      | (.fail e, s₃) => (.fail, ((s₃.storeRx []).noteFailure e .data).release)
      | (.ok bytes, s₃) => (.ok, (s₃.storeRx bytes).release) := by
  have h' : ((readReady a s).callXw [a]).1 = .ok r := by simp [h, writeAnswer]
  have e' : (readReady a s).callXw [a] = (.ok r, ((readReady a s).callXw [a]).2) := by
    rw [← h']
  show (match (readReady a s).callXw [a] with | (.pending, s₂) => _ | (.fail e, s₂) => _ | (.ok _, s₂) => _) = _
  rw [e']
  rfl

theorem rframe_data_hang (a : Byte) (n : Nat) (s : State) (r : XRes) (b : List Byte)
    (h0 : s.replyAt 0 = .ok r b) (h1 : s.replyAt 1 = .never) :
    rframe a n s = (.hang, ((readSent a s).callXr n).2) := by
  have e : (readSent a s).callXr n = (.pending, ((readSent a s).callXr n).2) :=
    Prod.ext (by simp [h1, State.readAnswer]) rfl
  rw [rframe_addr_ok a n s r b h0, e]

theorem rframe_data_fail (a : Byte) (n : Nat) (s : State) (r : XRes) (b : List Byte) (e : XErr)
    (h0 : s.replyAt 0 = .ok r b) (h1 : s.replyAt 1 = .fail e) :
    rframe a n s =
      (.fail, ((((readSent a s).callXr n).2.storeRx []).noteFailure e .data).release) := by
  have e' : (readSent a s).callXr n = (.fail e, ((readSent a s).callXr n).2) :=
    Prod.ext (by simp [h1, State.readAnswer]) rfl
  rw [rframe_addr_ok a n s r b h0, e']

theorem rframe_ok (a : Byte) (n : Nat) (s : State) (r r' : XRes) (b listed : List Byte)
    (h0 : s.replyAt 0 = .ok r b) (h1 : s.replyAt 1 = .ok r' listed) :
    rframe a n s =
      (.ok, (((readSent a s).callXr n).2.storeRx ((readSent a s).servedBytes listed n)).release) := by
  have e' : (readSent a s).callXr n =
      (.ok ((readSent a s).servedBytes listed n), ((readSent a s).callXr n).2) :=
    Prod.ext (by simp [h1, State.readAnswer]) rfl
  rw [rframe_addr_ok a n s r b h0, e']

theorem wframe_hang (a v : Byte) (s : State) (h : s.replyAt 0 = .never) :
    wframe a v s = (.hang, ((writeReady a v s).callXw [a, v]).2) := by
  have e : (writeReady a v s).callXw [a, v] = (.pending, ((writeReady a v s).callXw [a, v]).2) :=
    Prod.ext (by simp [h, writeAnswer]) rfl
  show (match (writeReady a v s).callXw [a, v] with
    | (.pending, s₂) => _ | (.fail e, s₂) => _ | (.ok r, s₂) => _) = _
  rw [e]

theorem wframe_fail (a v : Byte) (s : State) (e : XErr) (h : s.replyAt 0 = .fail e) :
    wframe a v s = (.fail, (((writeReady a v s).callXw [a, v]).2.noteFailure e .addr).release) := by
  have e' : (writeReady a v s).callXw [a, v] = (.fail e, ((writeReady a v s).callXw [a, v]).2) :=
    Prod.ext (by simp [h, writeAnswer]) rfl
  show (match (writeReady a v s).callXw [a, v] with
    | (.pending, s₂) => _ | (.fail e, s₂) => _ | (.ok r, s₂) => _) = _
  rw [e']

theorem wframe_ok (a v : Byte) (s : State) (r : XRes) (b : List Byte)
    (h : s.replyAt 0 = .ok r b) :
    wframe a v s = (.ok, (((writeReady a v s).callXw [a, v]).2.setWres r).release) := by
  have e' : (writeReady a v s).callXw [a, v] = (.ok r, ((writeReady a v s).callXw [a, v]).2) :=
    Prod.ext (by simp [h, writeAnswer]) rfl
  show (match (writeReady a v s).callXw [a, v] with
    | (.pending, s₂) => _ | (.fail e, s₂) => _ | (.ok r, s₂) => _) = _
  rw [e']

/-! ## The template of a command -/

theorem command_busy (i : Instr) (s : State) (body : State → State) (h : s.ph ≠ .idle) :
    command i s body = .refused .commandWhileBusy := by
  simp [command, h]

theorem command_refused (i : Instr) (s : State) (body : State → State) (r : Reason)
    (h : s.ph = .idle) (hr : refusalReason i s.cfgd = some r) :
    command i s body = .next (s.refuse r) := by
  simp [command, h, hr]

theorem command_admitted (i : Instr) (s : State) (body : State → State)
    (h : s.ph = .idle) (hr : refusalReason i s.cfgd = none) :
    command i s body = .next (body (s.accept i)) := by
  simp [command, h, hr]

/-- What a command does once it is admitted. -/
def commandBody : Instr → State → State
  | .init tc mode avg => fun s₀ =>
    match wframe addrWriteCr0 (Config.cr0Code mode) (s₀.setSeq 0) with
    | (.hang, s₁) => s₁
    | (.fail, s₁) => s₁.raiseXfail 0
    | (.ok, s₁) =>
      match wframe addrWriteCr1 (cr1Value avg tc) (s₁.setSeq 1) with
      | (.hang, s₂) => s₂
      | (.fail, s₂) => s₂.raiseXfail 1
      | (.ok, s₂) => s₂.finishInit { tc := tc, mode := mode, avg := avg }
  | .rdregs addr len => readCommand addr len.toNat State.finishData
  | .wrreg addr val => fun s₀ =>
    match wframe addr val s₀ with
    | (.hang, s₁) => s₁
    | (.fail, s₁) => s₁.raiseXfail 0
    | (.ok, s₁) => s₁.finishWres
  | .rdcj => readCommand addrCjth 2 State.finishCj
  | .rdtc => readCommand addrLtb2 3 State.finishTc
  | .rdflt => readCommand addrFlt 1 State.finishData

/-- Every meaning is the template around one body. -/
theorem exec_eq_command (i : Instr) (s : State) : exec i s = command i s (commandBody i) := by
  cases i <;> rfl

/-- All that a command can do: nothing while another runs, a refusal, or its body. -/
theorem exec_cases (i : Instr) (s : State) :
    (s.ph ≠ .idle ∧ exec i s = .refused .commandWhileBusy) ∨
    (∃ r, s.ph = .idle ∧ refusalReason i s.cfgd = some r ∧ exec i s = .next (s.refuse r)) ∨
    (s.ph = .idle ∧ refusalReason i s.cfgd = none ∧
      exec i s = .next (commandBody i (s.accept i))) := by
  rw [exec_eq_command]
  by_cases h : s.ph = .idle
  · cases hr : refusalReason i s.cfgd with
    | none => exact .inr (.inr ⟨h, rfl, command_admitted i s _ h hr⟩)
    | some r => exact .inr (.inl ⟨r, h, rfl, command_refused i s _ r h hr⟩)
  · exact .inl ⟨h, command_busy i s _ h⟩

end Sys2Proof.Machine
end

