-- ==== Sys2Proof/Laws/Chip.lean ====
section
/-! SUPPORT. The frames that commands run, and what the reference chip does in them. -/

namespace Sys2Proof.Machine

/-- A read address has bit 7 clear. -/
theorem isRead_of_raddr (a : Byte) (h : inRaddr a = true) : isReadForm a = true := by
  revert a; decide

/-- A write address has bit 7 set. -/
theorem isWrite_of_waddr (a : Byte) (h : inWaddr a = true) : isReadForm a = false := by
  revert a; decide

/-- A read frame of a legal command sends a read address and asks for at most `MAX_LEN` bytes. -/
theorem frame_read_wf (i : Instr) (q : Fin 2) (a : Byte) (n : Nat) (hw : i.wellFormed = true)
    (h : frameOf i q = .read a n) : inRaddr a = true ∧ n ≤ Config.maxLen := by
  have := three_le_maxLen
  cases i <;> simp only [frameOf] at h
  case init => split at h <;> cases h
  case wrreg => cases h
  all_goals (injection h with h1 h2; subst h1; subst h2)
  case rdregs a l =>
    simp only [Instr.wellFormed, Bool.and_eq_true, decide_eq_true_eq] at hw
    exact ⟨by simp [inRaddr, hw.1], hw.2.2⟩
  all_goals exact ⟨by decide, by omega⟩

/-- A write frame of a legal command sends a write address. -/
theorem frame_write_wf (i : Instr) (q : Fin 2) (a v : Byte) (hw : i.wellFormed = true)
    (h : frameOf i q = .write a v) : inWaddr a = true := by
  cases i <;> simp only [frameOf] at h
  case init => split at h <;> (injection h with h1 h2; subst h1; decide)
  case wrreg a l =>
    injection h with h1 h2; subst h1
    simp only [Instr.wellFormed, Bool.and_eq_true, decide_eq_true_eq] at hw
    simp [inWaddr, hw]
  all_goals cases h

theorem onChip_ref (f) (s : State) (h : s.far = .refChip) : s.onChip f = f s.chip := by
    simp [State.onChip, h]

theorem convert_stopped (c : Chip) : c.convert.stopped = c.stopped := by
    unfold Chip.convert; split <;> rfl

@[simp] theorem setTx0_onChip (s : State) (a) (f) : (s.setTx0 a).onChip f = s.onChip f := rfl

/-- The chip changes none of 0x00 to 0x09 on its own (R62). -/
theorem convertOne_read (m : Memory) (c : Host.Cell) (k : Nat)
    (h : k ≤ 9) : (convertOne m c).read k = m.read k := by
  unfold convertOne; split
  · exact Memory.read_put_other _ _ (by omega)
  · rfl

/-- The chip changes none of 0x00 to 0x09 on its own (R62). -/
theorem convert_read (c : Chip) (k : Nat) (h : k ≤ 9) :
    c.convert.regs.read k = c.regs.read k := by
  unfold Chip.convert
  split
  · rfl
  · dsimp only
    rename_i batch rest heq
    clear heq
    generalize c.regs = m
    induction batch generalizing m with
    | nil => rfl
    | cons x b ih => rw [List.foldl_cons, ih]; exact convertOne_read m x k h

/-- With no change to come, none is made. -/
theorem convert_nil (c : Chip) (h : c.conversions = []) : c.convert = c := by
  unfold Chip.convert; rw [h]

/-- The reference chip when the `XR` of a read frame is made. -/
theorem readSent_chip (a : Byte) (s : State) (ha : inRaddr a = true) (hf : s.far = .refChip) :
   (readSent a s).chip = { s.chip.convert with sel := true, mode := .read, ptr := a } := by
  have h1 : (readReady a s).chip = { s.chip.convert with sel := true, mode := .none } := by
    simp only [readReady, setTx0_chip, setPh_chip, driveCs_chip]
    exact onChip_ref _ (s.setPh .sel) hf
  have hf' : (readReady a s).far = .refChip := hf
  simp only [readSent, setPh_chip, callXw_chip, onChip_ref _ _ hf', h1, Chip.onWrite,
      isRead_of_raddr a ha]
  simp

/-- What a read frame serves is what `State.readDelivers` says. -/
theorem read_delivers (a : Byte) (n : Nat) (s : State) (l : List Byte) (ha : inRaddr a = true) :
   s.readDelivers a n l ((readSent a s).servedBytes l n) := by
  refine ⟨by simp, ?_, ?_⟩
  · intro i hi hl
    simp [State.servedBytes, hi, servedByte_listed, hl]
  · intro hf i hi hl h15 b hb
    have hf' : (readSent a s).far = .refChip := hf
    have : l[i]? = none := by simp [hl]
    simp only [State.servedBytes, List.getElem?_map, List.getElem?_range hi, Option.map_some,
        State.servedByte, this, State.chipByte, hf', Chip.byteAt, readSent_chip a s ha hf,
        if_pos h15, hb]

/-- A reading command whose two calls are answered OK. -/
theorem read_body_ok (i : Instr) (a : Byte) (n : Nat) (fin : State → State) (s : State)
    (r₀ r₁ : XRes) (b₀ l : List Byte)
   (hb : commandBody i = readCommand a n fin) (hp : s.ph = .idle)
       (hr : refusalReason i s.cfgd = none)
   (h0 : s.replyAt 0 = .ok r₀ b₀) (h1 : s.replyAt 1 = .ok r₁ l) (ha : inRaddr a = true) :
   ∃ t bytes, exec i s = .next (fin t) ∧ s.readDelivers a n l bytes ∧
       t.work.rx = rxHolding (t.tick - 1) bytes ∧ t.work.n = n ∧
     t.events = s.events ++ [.cs .active, .xw [a] (.ok r₀), .xr n (.ok bytes),
         .cs .inactive] ∧ t.responses = s.responses ∧ t.cs = .inactive ∧ t.cfgd = s.cfgd ∧
         t.cfg = s.cfg ∧ t.inbox = s.inbox ∧ t.far = s.far := by
  let s1 := (s.accept i).setN n
  have e0 : s1.replyAt 0 = .ok r₀ b₀ := h0
  have e1 : s1.replyAt 1 = .ok r₁ l := h1
  refine ⟨(((readSent a s1).callXr n).2.storeRx ((readSent a s1).servedBytes l n)).release,
      (readSent a s1).servedBytes l n, ?_, read_delivers a n s1 l ha, ?_, rfl, ?_, rfl, rfl, rfl,
      rfl, rfl, rfl⟩
  · rw [exec_eq_command, command_admitted _ _ _ hp hr, hb]
    unfold readCommand
    rw [rframe_ok a n s1 r₀ r₁ b₀ l e0 e1]
  · simp [release_eq]
  · simp [release_eq, readSent, readReady, e1, e0, writeAnswer, State.readAnswer]
    rfl

end Sys2Proof.Machine
end

