-- ==== Sys2Proof/Laws/Decoder.lean ====
section
/-! SUPPORT. The container of a sample as a number, and its split into sign bit and magnitude. -/

namespace Sys2Proof.Machine

/-- Joining more bytes to a number. -/
theorem container_append (l : List Byte)
    (c : Nat) : l.foldl (fun c b => c * 256 + b.toNat) c = c * 256 ^ l.length + container l := by
  unfold container
  induction l generalizing c with
  | nil => simp
  | cons b l ih =>
    simp only [List.foldl_cons, List.length_cons, Nat.zero_mul, Nat.zero_add]
    rw [ih, ih b.toNat]; ring

/-- The first byte is the most significant one. -/
theorem container_cons (b : Byte)
    (l : List Byte) : container (b :: l) = b.toNat * 256 ^ l.length + container l := by
  have := container_append l b.toNat
  simpa [container] using this

/-- A container of `N` bytes is below `2^(8*N)`. -/
theorem container_lt (l : List Byte) : container l < 256 ^ l.length := by
  induction l with
  | nil => simp [container]
  | cons b l ih =>
    rw [container_cons, List.length_cons, pow_succ]
    have := b.isLt
    nlinarith

/-- A byte is its top bit and its low seven bits. -/
theorem byte_split (b : Byte) : b.toNat = (if b.getLsbD 7 then 128 else 0) + (b &&& 0x7F).toNat ∧
    (b &&& 0x7F).toNat < 128 := by
  revert b; decide

/-- A container is its sign bit and `ACC`. -/
theorem container_split (l : List Byte) (h : l ≠ []) :
    container l = (if decSign l then 2 ^ (8 * l.length - 1) else 0) + decAcc l ∧
      decAcc l < 2 ^ (8 * l.length - 1) := by
  cases l with
  | nil => exact absurd rfl h
  | cons b l =>
    obtain ⟨h1, h2⟩ := byte_split b
    have h3 := container_lt l
    have e : 2 ^ (8 * (l.length + 1) - 1) = 128 * 256 ^ l.length := by
      rw [show 8 * (l.length + 1) - 1 = 7 + 8 * l.length by omega, pow_add, pow_mul]
      norm_num
    simp only [decSign, decAcc, container_cons, List.length_cons, e]
    generalize hs : b.getLsbD 7 = sgn at *
    generalize (b &&& 0x7F).toNat = m at *
    constructor
    · rw [h1]
      cases sgn
      · simp
      · simp; ring
    · nlinarith

/-- The bounds of steps 1 and 2 of R140, and the container shifted with its sign bit left in. -/
theorem dec_main (w : Nat) (bytes : List Byte) (h1 : 1 ≤ w) (h2 : w ≤ 8 * bytes.length) :
    decAcc bytes < 2 ^ (8 * bytes.length - 1) ∧ decMagnitude w bytes < 2 ^ (w - 1) ∧
    container bytes >>> (8 * bytes.length - w) =
        (if decSign bytes then 2 ^ (w-1) else 0) + decMagnitude w bytes := by
  have hne : bytes ≠ [] := by rintro rfl; simp at h2; omega
  obtain ⟨e1, e2⟩ := container_split bytes hne
  have hp : 2 ^ (8 * bytes.length - 1) = 2 ^ (w - 1) * 2 ^ (8 * bytes.length - w) := by
      rw [← pow_add]; congr 1; omega
  refine ⟨e2, ?_, ?_⟩
  · unfold decMagnitude
    rw [Nat.shiftRight_eq_div_pow]
    apply Nat.div_lt_of_lt_mul
    rw [Nat.mul_comm, ← hp]; exact e2
  · rw [e1]; unfold decMagnitude
    simp only [Nat.shiftRight_eq_div_pow]
    split
    · rw [hp, Nat.mul_comm, Nat.mul_add_div (by positivity)]
    · simp

/-- `VAL` holds every 19-bit signed number. -/
theorem toInt_ofInt19 (i : Int) (h1 : -262144 ≤ i)
    (h2 : i ≤ 262143) : (BitVec.ofInt 19 i).toInt = i := by
  rw [BitVec.toInt_ofInt, Int.bmod_def]; norm_num; split <;> omega

end Sys2Proof.Machine
end

