-- ==== Sys2Proof/Laws/PerInstr.lean ====
section
/-! SUPPORT. The per-command family OpcodeField: the operation code in a command's word is the one R72
gives it, and no command takes a reserved code (R72, R75). -/

namespace Sys2Proof.Laws.OpcodeField

/-- The word's `op` field is the command's operation code, which is neither 0b000 nor 0b111. -/
def Statement (i : Instr) : Prop :=
  opField (encode i) = opcode i ∧ opcode i ≠ 0b000#3 ∧ opcode i ≠ 0b111#3

theorem init (tc : ThermoType) (mode : ConvMode) (avg : Averaging) :
    Statement (.init tc mode avg) :=
  ⟨opField_joinFields _ _ _, (by decide : 0b001#3 ≠ 0b000#3),
    (by decide : 0b001#3 ≠ 0b111#3)⟩

theorem rdregs (addr len : Byte) : Statement (.rdregs addr len) :=
  ⟨opField_joinFields _ _ _, (by decide : 0b010#3 ≠ 0b000#3),
    (by decide : 0b010#3 ≠ 0b111#3)⟩

theorem wrreg (addr val : Byte) : Statement (.wrreg addr val) :=
  ⟨opField_joinFields _ _ _, (by decide : 0b011#3 ≠ 0b000#3),
    (by decide : 0b011#3 ≠ 0b111#3)⟩

theorem rdcj : Statement .rdcj := ⟨opField_joinFields _ _ _, (by decide : 0b100#3 ≠ 0b000#3),
    (by decide : 0b100#3 ≠ 0b111#3)⟩

theorem rdtc : Statement .rdtc := ⟨opField_joinFields _ _ _, (by decide : 0b101#3 ≠ 0b000#3),
    (by decide : 0b101#3 ≠ 0b111#3)⟩

theorem rdflt : Statement .rdflt := ⟨opField_joinFields _ _ _, (by decide : 0b110#3 ≠ 0b000#3),
    (by decide : 0b110#3 ≠ 0b111#3)⟩

end Sys2Proof.Laws.OpcodeField
end

