-- ==== Sys2Proof/Laws/Sequencer.lean ====
section
/-! SUPPORT. What the sequencer does: one row of R120 at a time, and a whole frame at once. -/

namespace Sys2Proof.Machine

/-! ## Refusal -/

/-- A refusal once delivered is read off the history (R176). -/
@[simp] theorem refuse_refusedBefore (s : State) (r : Reason) :
    (s.refuse r).refusedBefore = true := by
  simp [State.refuse, State.refusedBefore, Response.isRefused]

/-- No step goes past a refused command (R12, R167). -/
theorem step_past_refusal (s : State) (h : s.simulationStopped = false)
    (hr : s.refusedBefore = true) : step s = .refused .pastRefusedCommand := by
  simp [step, h, hr]

/-! ## The rows -/

/-- There is no row from IDLE but by a command. -/
theorem advance_idle (i : Instr) (s : State) (h : s.ph = .idle) : advance i s = s := by
  unfold advance; split
  · rfl
  · rw [h]

/-- There is no row from a call that never returns (R118). -/
theorem advance_waiting (i : Instr) (s : State) (h : s.waiting = true) : advance i s = s := by
  simp [advance, h]

theorem advanceTimes_idle (i : Instr) (k : Nat) (s : State)
    (h : s.ph = .idle) : advanceTimes i k s = s := by
  induction k with
  | zero => rfl
  | succ k ih => simp [advanceTimes, advance_idle i s h, ih]

theorem advanceTimes_waiting (i : Instr) (k : Nat) (s : State)
    (h : s.waiting = true) : advanceTimes i k s = s := by
  induction k with
  | zero => rfl
  | succ k ih => simp [advanceTimes, advance_waiting i s h, ih]

theorem advance_sel (i : Instr) (s : State) (hw : s.waiting = false) (h : s.ph = .sel) :
    advance i s = (s.driveCs .active).setPh .addr := by simp [advance, h, hw]

theorem advance_addr (i : Instr) (s : State) (hw : s.waiting = false) (h : s.ph = .addr) :
    advance i s = advanceAddr (frameOf i s.work.seq) s := by simp [advance, h, hw]

theorem advance_data (i : Instr) (s : State) (hw : s.waiting = false) (h : s.ph = .data) :
    advance i s = advanceData s := by simp [advance, h, hw]

theorem advance_rel (i : Instr) (s : State) (hw : s.waiting = false) (h : s.ph = .rel) :
    advance i s = advanceRel i s := by simp [advance, h, hw]

/-- A good command ends IDLE. -/
theorem finishCommand_ph (i : Instr) (s : State) : (finishCommand i s).ph = .idle := by
  cases i <;> rfl

/-- One read frame by the sequencer: `RFRAME`, then the end of the command. -/
theorem advance_read_frame (i : Instr) (a : Byte) (n k : Nat) (s : State) (hi : isInit i = false)
   (hf : ∀ q, frameOf i q = .read a n) (hn : s.work.n = n) (he : s.work.err = false)
       (hw : s.waiting = false) :
   advanceTimes i (k+4) (s.setPh .sel) = 
     match rframe a n s with
     | (.hang, t) => t
     | (.fail, t) => t.raiseXfail 0
     | (.ok, t) => finishCommand i t := by
  have e1 : advanceTimes i (k+4) (s.setPh .sel) = advanceTimes i (k+2) (advanceAddr (.read a n)
      ((s.setPh .sel).driveCs .active |>.setPh .addr)) := by
    rw [advanceTimes, advance_sel _ _ (by simpa using hw) rfl, advanceTimes,
        advance_addr _ _ (by simpa using hw) rfl, hf]
  rw [e1]
  cases h0 : s.replyAt 0 with
  | never =>
    rw [rframe_addr_hang a n s h0]
    have e : advanceAddr (.read a n)
        ((s.setPh .sel).driveCs .active |>.setPh .addr) = ((readReady a s).callXw [a]).2 := by
      have : (readReady a s).callXw [a] = (.pending, ((readReady a s).callXw [a]).2) :=
        Prod.ext (by simp [h0, writeAnswer]) rfl
      change (match (readReady a s).callXw [a] with
          | (.pending, s₂) => _ | (.fail e, s₂) => _ | (.ok _, s₂) => _) = _
      rw [this]
    rw [e, advanceTimes_waiting _ _ _ (by simp [h0, writeAnswer, CallResult.isPending])]
  | fail e =>
    rw [rframe_addr_fail a n s e h0]
    have e : advanceAddr (.read a n)
        ((s.setPh .sel).driveCs .active |>.setPh .addr) =
        (((readReady a s).callXw [a]).2.noteFailure e .addr).setPh .rel := by
      have : (readReady a s).callXw [a] = (.fail e, ((readReady a s).callXw [a]).2) :=
        Prod.ext (by simp [h0, writeAnswer]) rfl
      change (match (readReady a s).callXw [a] with
          | (.pending, s₂) => _ | (.fail e, s₂) => _ | (.ok _, s₂) => _) = _
      rw [this]
    rw [e, advanceTimes, advance_rel _ _ (by simp [h0, writeAnswer, CallResult.isPending]) rfl]
    simp only [advanceRel]
    rw [if_pos (by simp), advanceTimes_idle _ _ _ rfl]
    simp [frameIndex, hi, State.release]
  | ok r b =>
    have e : advanceAddr (.read a n)
        ((s.setPh .sel).driveCs .active |>.setPh .addr) = readSent a s := by
      have : (readReady a s).callXw [a] = (.ok r, ((readReady a s).callXw [a]).2) :=
        Prod.ext (by simp [h0, writeAnswer]) rfl
      change (match (readReady a s).callXw [a] with
          | (.pending, s₂) => _ | (.fail e, s₂) => _ | (.ok _, s₂) => _) = _
      rw [this]; rfl
    have hw1 : (readSent a s).waiting = false := by simp [readSent, h0, writeAnswer,
        CallResult.isPending]
    have hn1 : (readSent a s).work.n = n := by simp [readSent, readReady, hn]
    rw [e, advanceTimes, advance_data _ _ hw1 rfl]
    unfold advanceData
    rw [hn1]
    cases h1 : s.replyAt 1 with
    | never =>
      rw [rframe_data_hang a n s r b h0 h1]
      have : (readSent a s).callXr n = (.pending, ((readSent a s).callXr n).2) :=
        Prod.ext (by simp [h1, State.readAnswer]) rfl
      rw [this]; dsimp only
      rw [advanceTimes_waiting _ _ _ (by simp [h1, State.readAnswer, CallResult.isPending])]
    | fail e =>
      rw [rframe_data_fail a n s r b e h0 h1]
      have : (readSent a s).callXr n = (.fail e, ((readSent a s).callXr n).2) :=
        Prod.ext (by simp [h1, State.readAnswer]) rfl
      rw [this]; dsimp only
      rw [advanceTimes, advance_rel _ _ (by simp [h1, State.readAnswer, CallResult.isPending]) rfl]
      simp only [advanceRel]
      rw [if_pos (by simp), advanceTimes_idle _ _ _ rfl]
      simp [frameIndex, hi, State.release]
    | ok r' l =>
      rw [rframe_ok a n s r r' b l h0 h1]
      have : (readSent a s).callXr n = (.ok ((readSent a s).servedBytes l n),
          ((readSent a s).callXr n).2) :=
        Prod.ext (by simp [h1, State.readAnswer]) rfl
      rw [this]; dsimp only
      rw [advanceTimes, advance_rel _ _ (by simp [h1, State.readAnswer, CallResult.isPending]) rfl]
      simp only [advanceRel]
      rw [if_neg (by simp [readSent, readReady, he]), if_neg (by simp [hi]),
          advanceTimes_idle _ _ _ (finishCommand_ph _ _)]
      rfl

/-- One write frame by the sequencer: `WFRAME`, then the second frame of INIT or the end. -/
theorem advance_write_frame (i : Instr) (a v : Byte) (k : Nat) (s : State) 
   (hf : frameOf i s.work.seq = .write a v) (he : s.work.err = false) (hw : s.waiting = false) :
   advanceTimes i (k+3) (s.setPh .sel) = 
     match wframe a v s with
     | (.hang, t) => t
     | (.fail, t) => t.raiseXfail (frameIndex i s)
     | (.ok, t) => if isInit i = true ∧
         s.work.seq = 0 then advanceTimes i k ((t.setSeq 1).setPh .sel) else finishCommand i t := by
  have e1 : advanceTimes i (k+3) (s.setPh .sel) = advanceTimes i (k+1) (advanceAddr (.write a v)
      ((s.setPh .sel).driveCs .active |>.setPh .addr)) := by
    rw [advanceTimes, advance_sel _ _ (by simpa using hw) rfl, advanceTimes,
        advance_addr _ _ (by simpa using hw) rfl]
    rw [← hf]; rfl
  rw [e1]
  have key : ∀ c, writeAnswer (s.replyAt 0) = c → (writeReady a v s).callXw [a, v] = (c,
      ((writeReady a v s).callXw [a, v]).2) := by
    intro c h; exact Prod.ext (by simp [h]) rfl
  cases h0 : s.replyAt 0 with
  | never =>
    rw [wframe_hang a v s h0]
    have e : advanceAddr (.write a v)
        ((s.setPh .sel).driveCs .active |>.setPh .addr) = ((writeReady a v s).callXw [a,v]).2 := by
      change (match (writeReady a v s).callXw [a,v] with
          | (.pending, s₂) => _ | (.fail e, s₂) => _ | (.ok _, s₂) => _) = _
      rw [key .pending (by simp [h0, writeAnswer])]
    rw [e, advanceTimes_waiting _ _ _ (by simp [h0, writeAnswer, CallResult.isPending])]
  | fail e =>
    rw [wframe_fail a v s e h0]
    have e : advanceAddr (.write a v)
        ((s.setPh .sel).driveCs .active |>.setPh .addr) =
        (((writeReady a v s).callXw [a,v]).2.noteFailure e .addr).setPh .rel := by
      change (match (writeReady a v s).callXw [a,v] with
          | (.pending, s₂) => _ | (.fail e, s₂) => _ | (.ok _, s₂) => _) = _
      rw [key (.fail e) (by simp [h0, writeAnswer])]
    rw [e, advanceTimes, advance_rel _ _ (by simp [h0, writeAnswer, CallResult.isPending]) rfl]
    simp only [advanceRel]
    rw [if_pos (by simp), advanceTimes_idle _ _ _ rfl]
    rfl
  | ok r b =>
    rw [wframe_ok a v s r b h0]
    have e : advanceAddr (.write a v)
        ((s.setPh .sel).driveCs .active |>.setPh .addr) =
        (((writeReady a v s).callXw [a,v]).2.setWres r).setPh .rel := by
      change (match (writeReady a v s).callXw [a,v] with
          | (.pending, s₂) => _ | (.fail e, s₂) => _ | (.ok _, s₂) => _) = _
      rw [key (.ok r) (by simp [h0, writeAnswer])]
    rw [e, advanceTimes, advance_rel _ _ (by simp [h0, writeAnswer, CallResult.isPending]) rfl]
    simp only [advanceRel]
    rw [if_neg (by simp [writeReady, he])]
    have : ∀ (X:State), (((((writeReady a v s).callXw [a,
        v]).2.setWres r).setPh .rel).driveCs .inactive).work.seq = s.work.seq := fun _ => rfl
    by_cases hc : isInit i = true ∧ s.work.seq = 0
    · rw [if_pos hc, if_pos]
      · rfl
      · exact hc
    · rw [if_neg hc, if_neg]
      · rw [advanceTimes_idle _ _ _ (finishCommand_ph _ _)]; rfl
      · exact hc

/-- A row keeps the command in progress or ends it. -/
theorem advance_cur (i : Instr) (s : State)
    (hc : s.cur = some i) : (advance i s).ph = .idle ∨ (advance i s).cur = some i := by
  unfold advance
  split
  · exact .inr hc
  · split
    · exact .inr hc
    · exact .inr hc
    · right; unfold advanceAddr
      split <;>
        (dsimp only
         split <;> rename_i heq <;> have := congrArg (fun x => x.2.cur) heq <;>
           simp at this <;> simp [← this, hc])
    · right; unfold advanceData
      split <;> rename_i heq <;> have :=
          congrArg (fun x => x.2.cur) heq <;> simp at this <;> simp [← this, hc]
    · unfold advanceRel
      dsimp only
      split
      · exact .inl rfl
      · split
        · exact .inr hc
        · exact .inl (finishCommand_ph _ _)

/-- An admitted command is the one in progress. -/
theorem begin_cur (i : Instr) (s : State) : (s.begin i).cur = some i := by
  cases i <;> rfl

end Sys2Proof.Machine
end

