-- ==== Sys2Proof/Laws/Safety.lean ====
section
/-! SUPPORT. The invariant: it holds at the start of an admitted command, and each row of R120 keeps
it. -/

namespace Sys2Proof.Machine

/-- One more event moves the reader of the history by one move. -/
theorem bus_snoc (p : Option BusPos) (es : List Event) (e : Event) (q q' : BusPos)
    (h : busAfter p es = some q) (h' : q.next e = some q') : busAfter p (es ++ [e]) = some q' := by
  simp only [busAfter, List.foldl_append, List.foldl_cons, List.foldl_nil] at *
  rw [h]; exact h'

/-- A response ends a command in a state that meets the invariant. -/
theorem respond_inv (s : State) (r : Response) (hm : s.chip.regs.wf = true)
    (hcs : s.cs = .inactive) (hw : s.waiting = false)
   (hb : busAfter (some .outside) s.events = some .outside) (hst : s.far = .refChip →
       s.chip.stopped = false) : (s.respond r).Inv where
  memory := hm
  rxSize := unspecified_rx_length _
  count := unspecified_n_le _
  level := hcs
  idle _ := ⟨rfl, hw⟩
  busy h := absurd rfl h
  noError h := by simp at h
  waits h := by rw [respond_waiting, hw] at h; cases h
  bus := hb
  chip h := ⟨hst h, by simp, by simp⟩

/-- So does the good end of every command. -/
theorem finish_inv (i : Instr) (s : State) (hm : s.chip.regs.wf = true) (hcs : s.cs = .inactive)
    (hw : s.waiting = false)
   (hb : busAfter (some .outside) s.events = some .outside) (hst : s.far = .refChip →
       s.chip.stopped = false) : (finishCommand i s).Inv := by
  cases i
  case init tc m g =>
    exact respond_inv { s with cfg := ⟨tc, m, g⟩, cfgd := true } _ hm hcs hw hb hst
  case rdcj => exact respond_inv (s.loadDecoded _) _ hm hcs hw hb hst
  case rdtc => exact respond_inv (s.loadDecoded _) _ hm hcs hw hb hst
  all_goals exact respond_inv s _ hm hcs hw hb hst

/-- Each row of R120 keeps the invariant. -/
theorem advance_inv (i : Instr) (s : State) (h : s.Inv) (hc : s.cur = some i)
    (hp : s.ph ≠ .idle) : (advance i s).Inv := by
  obtain ⟨j, hj, hwf, hcfg, hfit⟩ := h.busy hp
  rw [hc] at hj; injection hj with hj; subst hj
  by_cases hw : s.waiting = true
  · rw [advance_waiting _ _ hw]; exact h
  simp only [Bool.not_eq_true] at hw
  have hbus := h.bus
  have hlevel := h.level
  cases hph : s.ph with
  | idle => exact absurd hph hp
  | sel =>
    rw [advance_sel _ _ hw hph]
    rw [hph] at hlevel
    simp only [State.busPos, hph] at hbus
    refine
      { memory := ?_
        rxSize := h.rxSize
        count := h.count
        level := rfl
        idle := by simp
        busy := ?_
        noError := ?_
        waits := by simp [hw]
        bus := ?_
        chip := ?_ }
    · exact onChip_wf _ _ (fun c => Chip.onSelect_wf _ c) h.memory
    · intro _
      refine ⟨i, hc, hwf, hcfg, ?_⟩
      revert hfit
      simp only [setPh_work, driveCs_work]
      cases frameOf i s.work.seq <;> simp
    · intro _; exact h.noError (.inl hph)
    · simp only [setPh_events, driveCs_events, State.busPos, setPh_ph, setPh_waiting,
          driveCs_waiting, hw]
      exact bus_snoc _ _ _ _ _ hbus rfl
    · intro hf
      have hf' : s.far = .refChip := hf
      simp only [setPh_chip, driveCs_chip, onChip_ref _ _ hf', Chip.onSelect, convert_stopped]
      exact ⟨(h.chip hf').1, by simp, by simp⟩
  | addr =>
    rw [advance_addr _ _ hw hph]
    rw [hph] at hlevel
    simp only [State.busPos, hph, hw] at hbus
    have herr := h.noError (.inr (.inl hph))
    have hchip := h.chip
    cases hfr : frameOf i s.work.seq with
    | read a n =>
      obtain ⟨ha, hn⟩ := frame_read_wf i _ a n hwf hfr
      rw [hfr] at hfit
      simp only [advanceAddr]
      have key : ∀ c, writeAnswer (s.replyAt 0) = c →
          (s.setTx0 a).callXw [(s.setTx0 a).work.tx0] = (c, ((s.setTx0 a).callXw [a]).2) := by
        intro c h; exact Prod.ext (by simp [h]) rfl
      have hmem : ∀ d, (s.onChip (Chip.onWrite [a] d)).regs.wf = true :=
          fun d => onChip_wf _ _ (fun c => Chip.onWrite_wf _ _ c) h.memory
      have hst : s.far = .refChip →
          ∀ d, s.onChip (Chip.onWrite [a] d) = { s.chip with ptr := a, mode := .read } ∧
            s.chip.sel = true ∧ s.chip.stopped = false := by
        intro hf d
        obtain ⟨h1, h2, h3⟩ := hchip hf
        have := h2 hph hw
        simp [onChip_ref _ _ hf, Chip.onWrite, this, isRead_of_raddr a ha, h1]
      cases h0 : s.replyAt 0 with
      | never =>
        rw [key .pending (by simp [h0, writeAnswer])]
        refine
          { memory := hmem _
            rxSize := h.rxSize
            count := h.count
            level := by simp [hlevel, hph]
            idle := by simp [hph]
            busy := ?_
            noError := fun _ => herr
            waits := by simp [hph]
            bus := ?_
            chip := ?_ }
        · intro _
          refine ⟨i, hc, hwf, hcfg, ?_⟩
          simp [hfr, hfit]
        · simp only [State.busPos, callXw_ph, setTx0_ph, hph, callXw_events, setTx0_events,
              setTx0_replyAt, callXw_waiting, h0, writeAnswer, CallResult.isPending]
          exact bus_snoc _ _ _ _ _ hbus (by simp [BusPos.next, ha])
        · intro hf
          have := hst hf none
          refine ⟨?_, by simp [h0, writeAnswer, CallResult.isPending], by simp [hph]⟩
          simp only [callXw_chip]
          have e : ∀ f, (s.setTx0 a).onChip f = s.onChip f := fun _ => rfl
          rw [e, (hst hf _).1]; exact this.2.2
      | fail e =>
        rw [key (.fail e) (by simp [h0, writeAnswer])]
        refine
          { memory := hmem _
            rxSize := h.rxSize
            count := h.count
            level := by simp [hlevel, Phase.level]
            idle := by simp
            busy := ?_
            noError := by simp
            waits := by simp [h0, writeAnswer, CallResult.isPending]
            bus := ?_
            chip := ?_ }
        · intro _
          refine ⟨i, hc, hwf, hcfg, ?_⟩
          simp [hfr, hfit]
        · simp only [State.busPos, setPh_ph, setPh_events, noteFailure_events, callXw_events,
              setTx0_events, setTx0_replyAt, h0, writeAnswer]
          exact bus_snoc _ _ _ _ _ hbus (by simp [BusPos.next, ha])
        · intro hf
          have := hst hf none
          refine ⟨?_, by simp, by simp⟩
          simp only [setPh_chip, noteFailure_chip, callXw_chip]
          have e : ∀ f, (s.setTx0 a).onChip f = s.onChip f := fun _ => rfl
          rw [e, (hst hf _).1]; exact this.2.2
      | ok r b =>
        rw [key (.ok r) (by simp [h0, writeAnswer])]
        refine
          { memory := hmem _
            rxSize := h.rxSize
            count := h.count
            level := by simp [hlevel, Phase.level]
            idle := by simp
            busy := ?_
            noError := fun _ => herr
            waits := by simp [h0, writeAnswer, CallResult.isPending]
            bus := ?_
            chip := ?_ }
        · intro _
          refine ⟨i, hc, hwf, hcfg, ?_⟩
          simp [hfr, hfit]
        · simp only [State.busPos, setPh_ph, setPh_events, callXw_events, setTx0_events,
              setTx0_replyAt, h0, writeAnswer, setPh_waiting, callXw_waiting, CallResult.isPending]
          exact bus_snoc _ _ _ _ _ hbus (by simp [BusPos.next, ha])
        · intro hf
          have := hst hf none
          simp only [setPh_chip, callXw_chip]
          have e : ∀ f, (s.setTx0 a).onChip f = s.onChip f := fun _ => rfl
          rw [e, (hst hf _).1]
          exact ⟨this.2.2, by simp, by simp [this.2.1]⟩
    | write a v =>
      have ha := frame_write_wf i _ a v hwf hfr
      rw [hfr] at hfit
      simp only [advanceAddr]
      set s0 := (s.setTx0 a).setTx1 v with hs0
      have key : ∀ c, writeAnswer (s.replyAt 0) = c → s0.callXw [s0.work.tx0, s0.work.tx1] = (c,
          (s0.callXw [a, v]).2) := by
        intro c h; exact Prod.ext (by simp [h, hs0]) rfl
      have hmem : ∀ d, (s.onChip (Chip.onWrite [a,
          v] d)).regs.wf = true := fun d => onChip_wf _ _ (fun c => Chip.onWrite_wf _ _ c) h.memory
      have hst : s.far = .refChip →
          ∀ d, (s.onChip (Chip.onWrite [a, v] d)).stopped = false := by
        intro hf d
        obtain ⟨h1, h2, h3⟩ := hchip hf
        have := h2 hph hw
        simp [onChip_ref _ _ hf, Chip.onWrite, this, isWrite_of_waddr a ha, h1]
      have e : ∀ f, s0.onChip f = s.onChip f := fun _ => rfl
      have e2 : s0.replyAt 0 = s.replyAt 0 := rfl
      have e3 : s0.ph = .addr := hph
      have e4 : s0.work.seq = s.work.seq := rfl
      have e5 : s0.events = s.events := rfl
      cases h0 : s.replyAt 0 with
      | never =>
        rw [key .pending (by simp [h0, writeAnswer])]
        refine
          { memory := hmem _
            rxSize := h.rxSize
            count := h.count
            level := by simp [hs0, hlevel, hph]
            idle := by simp [e3]
            busy := ?_
            noError := fun _ => herr
            waits := by simp [e3]
            bus := ?_
            chip := ?_ }
        · intro _
          refine ⟨i, hc, hwf, hcfg, ?_⟩
          simp [e4, hfr, e3]
        · simp only [State.busPos, callXw_ph, callXw_events, e2, e3, e5, callXw_waiting, h0,
              writeAnswer, CallResult.isPending]
          exact bus_snoc _ _ _ _ _ hbus (by simp [BusPos.next, ha])
        · intro hf
          refine ⟨?_, by simp [e2, h0, writeAnswer, CallResult.isPending], by simp [e3]⟩
          simp only [callXw_chip, e]
          exact hst hf _
      | fail x =>
        rw [key (.fail x) (by simp [h0, writeAnswer])]
        refine
          { memory := hmem _
            rxSize := h.rxSize
            count := h.count
            level := by simp [hs0, hlevel, Phase.level]
            idle := by simp
            busy := ?_
            noError := by simp
            waits := by simp [e2, h0, writeAnswer, CallResult.isPending]
            bus := ?_
            chip := ?_ }
        · intro _
          refine ⟨i, hc, hwf, hcfg, ?_⟩
          simp [e4, hfr]
        · simp only [State.busPos, setPh_ph, setPh_events, noteFailure_events, callXw_events, e2,
              e5, h0, writeAnswer]
          exact bus_snoc _ _ _ _ _ hbus (by simp [BusPos.next, ha])
        · intro hf
          refine ⟨?_, by simp, by simp⟩
          simp only [setPh_chip, noteFailure_chip, callXw_chip, e]
          exact hst hf _
      | ok r b =>
        rw [key (.ok r) (by simp [h0, writeAnswer])]
        refine
          { memory := hmem _
            rxSize := h.rxSize
            count := h.count
            level := by simp [hs0, hlevel, Phase.level]
            idle := by simp
            busy := ?_
            noError := by simp
            waits := by simp [e2, h0, writeAnswer, CallResult.isPending]
            bus := ?_
            chip := ?_ }
        · intro _
          refine ⟨i, hc, hwf, hcfg, ?_⟩
          simp [e4, hfr]
        · simp only [State.busPos, setPh_ph, setPh_events, setWres_events, callXw_events, e2, e5,
              h0, writeAnswer]
          exact bus_snoc _ _ _ _ _ hbus (by simp [BusPos.next, ha])
        · intro hf
          refine ⟨?_, by simp, by simp⟩
          simp only [setPh_chip, setWres_chip, callXw_chip, e]
          exact hst hf _
  | data =>
    rw [advance_data _ _ hw hph]
    rw [hph] at hlevel
    simp only [State.busPos, hph, hw] at hbus
    have herr := h.noError (.inr (.inr hph))
    have hchip := h.chip
    cases hfr : frameOf i s.work.seq with
    | write a v => rw [hfr] at hfit; exact absurd hph hfit
    | read a n =>
      obtain ⟨ha, hn⟩ := frame_read_wf i _ a n hwf hfr
      rw [hfr] at hfit
      have hfit : s.work.n = n := hfit
      simp only [advanceData]
      have key : ∀ c, s.readAnswer s.work.n (s.replyAt 0) = c → s.callXr s.work.n = (c,
          (s.callXr s.work.n).2) := by
        intro c h; exact Prod.ext (by simp [h]) rfl
      have hmem : (s.onChip (Chip.onRead s.work.n)).regs.wf = true :=
          onChip_wf _ _ (fun c => Chip.onRead_wf _ c) h.memory
      have hst : s.far = .refChip → (s.onChip (Chip.onRead s.work.n)).stopped = false := by
        intro hf
        obtain ⟨h1, h2, h3⟩ := hchip hf
        have := h3 hph hw
        simp [onChip_ref _ _ hf, Chip.onRead, this, h1]
      cases h0 : s.replyAt 0 with
      | never =>
        rw [key .pending (by simp [h0, State.readAnswer])]
        refine
          { memory := hmem
            rxSize := h.rxSize
            count := h.count
            level := by simp [hlevel, hph]
            idle := by simp [hph]
            busy := ?_
            noError := fun _ => herr
            waits := by simp [hph]
            bus := ?_
            chip := ?_ }
        · intro _
          refine ⟨i, hc, hwf, hcfg, ?_⟩
          simp [hfr, hfit]
        · simp only [State.busPos, callXr_ph, hph, callXr_events, callXr_waiting, h0,
              State.readAnswer, CallResult.isPending]
          exact bus_snoc _ _ _ _ _ hbus (by simp [BusPos.next])
        · intro hf
          refine ⟨hst hf, by simp [hph], by simp [h0, State.readAnswer, CallResult.isPending]⟩
      | fail e =>
        rw [key (.fail e) (by simp [h0, State.readAnswer])]
        refine
          { memory := hmem
            rxSize := rxHolding_length _ _ (Nat.zero_le _)
            count := h.count
            level := by simp [hlevel, Phase.level]
            idle := by simp
            busy := ?_
            noError := by simp
            waits := by simp [h0, State.readAnswer, CallResult.isPending]
            bus := ?_
            chip := ?_ }
        · intro _
          refine ⟨i, hc, hwf, hcfg, ?_⟩
          simp [hfr, hfit]
        · simp only [State.busPos, setPh_ph, setPh_events, noteFailure_events, storeRx_events,
              callXr_events, h0, State.readAnswer]
          exact bus_snoc _ _ _ _ _ hbus (by simp [BusPos.next])
        · intro hf
          exact ⟨hst hf, by simp, by simp⟩
      | ok r l =>
        rw [key (.ok (s.servedBytes l s.work.n)) (by simp [h0, State.readAnswer])]
        refine
          { memory := hmem
            rxSize := rxHolding_length _ _ (by simpa using h.count)
            count := h.count
            level := by simp [hlevel, Phase.level]
            idle := by simp
            busy := ?_
            noError := by simp
            waits := by simp [h0, State.readAnswer, CallResult.isPending]
            bus := ?_
            chip := ?_ }
        · intro _
          refine ⟨i, hc, hwf, hcfg, ?_⟩
          simp [hfr, hfit]
        · simp only [State.busPos, setPh_ph, setPh_events, storeRx_events, callXr_events, h0,
              State.readAnswer]
          exact bus_snoc _ _ _ _ _ hbus (by simp [BusPos.next])
        · intro hf
          exact ⟨hst hf, by simp, by simp⟩
  | rel =>
    rw [advance_rel _ _ hw hph]
    simp only [State.busPos, hph] at hbus
    have hb' : busAfter (some .outside)
        (s.driveCs .inactive).events = some .outside := bus_snoc _ _ _ _ _ hbus rfl
    have hm : (s.driveCs .inactive).chip.regs.wf = true :=
        onChip_wf _ _ (fun c => Chip.onSelect_wf _ c) h.memory
    have hst : (s.driveCs .inactive).far = .refChip →
        (s.driveCs .inactive).chip.stopped = false := by
      intro hf
      have hf' : s.far = .refChip := hf
      simp [onChip_ref _ _ hf', Chip.onSelect, (h.chip hf').1]
    simp only [advanceRel]
    split
    · exact respond_inv _ _ hm rfl hw hb' hst
    · rename_i herr
      split
      · rename_i hcond
        refine
          { memory := hm
            rxSize := h.rxSize
            count := h.count
            level := rfl
            idle := by simp
            busy := ?_
            noError := ?_
            waits := by simp [hw]
            bus := hb'
            chip := ?_ }
        · intro _
          refine ⟨i, hc, hwf, hcfg, ?_⟩
          cases i <;> simp [isInit] at hcond
          simp [frameOf]
        · intro _; simpa using herr
        · intro hf; exact ⟨hst hf, by simp, by simp⟩
      · exact finish_inv i _ hm rfl hw hb' hst

/-- An admitted command starts in a state that meets the invariant. -/
theorem begin_inv (i : Instr) (s : State) (h : s.Inv) (hp : s.ph = .idle)
    (hr : refusalReason i s.cfgd = none) : (s.begin i).Inv := by
  have hwf : i.wellFormed = true ∧ s.cfgd = !isInit i := by
    unfold refusalReason at hr
    split at hr
    · cases hr
    · rename_i hl
      refine ⟨(wellFormed_iff_legal i).2 hl, ?_⟩
      revert hr; unfold admissionReason
      cases isInit i <;> cases s.cfgd <;> simp
  have h3 := three_le_maxLen
  have hb := h.bus; simp only [State.busPos, hp] at hb
  have hl := h.level; rw [hp] at hl
  have hst : s.far = .refChip → s.chip.stopped = false := fun hf => (h.chip hf).1
  have gen : ∀ (u : State), u.cs = s.cs → u.cfgd = s.cfgd → u.ph = .sel → u.cur = some i →
      u.waiting = false → u.far = s.far → u.chip = s.chip → u.events = s.events →
      u.work.rx = s.work.rx → u.work.err = false →
      u.work.n ≤ Config.maxLen →
          (match frameOf i u.work.seq with | .read _ n => u.work.n = n | .write _ _ => True) →
          u.Inv := by
    intro u h1 h2 h3 h4 h5 h6 h7 h8 h9 h10 h11 h12
    refine
      { memory := by rw [h7]; exact h.memory
        rxSize := by rw [h9]; exact h.rxSize
        count := h11
        level := by rw [h1, h3, hl]; rfl
        idle := by simp [h3]
        busy := ?_
        noError := fun _ => h10
        waits := by simp [h5]
        bus := by rw [h8]; simp [State.busPos, h3, hb]
        chip := ?_ }
    · intro _
      refine ⟨i, h4, hwf.1, by rw [h2]; exact hwf.2, ?_⟩
      revert h12
      cases frameOf i u.work.seq <;> simp [h3]
    · intro hf
      rw [h6] at hf
      exact ⟨by rw [h7]; exact hst hf, by simp [h3], by simp [h3]⟩
  cases i with
  | init tc m g =>
    exact gen _ rfl rfl rfl rfl rfl rfl rfl rfl rfl rfl h.count
      (by simp [State.begin, frameOf, isInit])
  | rdregs a l =>
    have := (frame_read_wf (.rdregs a l) 0 a l.toNat hwf.1 rfl).2
    exact gen _ rfl rfl rfl rfl rfl rfl rfl rfl rfl rfl this rfl
  | wrreg a v => exact gen _ rfl rfl rfl rfl rfl rfl rfl rfl rfl rfl h.count trivial
  | rdcj => exact gen _ rfl rfl rfl rfl rfl rfl rfl rfl rfl rfl (by show 2 ≤ _; omega) rfl
  | rdtc => exact gen _ rfl rfl rfl rfl rfl rfl rfl rfl rfl rfl (by show 3 ≤ _; omega) rfl
  | rdflt => exact gen _ rfl rfl rfl rfl rfl rfl rfl rfl rfl rfl (by show 1 ≤ _; omega) rfl

/-- So do any number of rows. -/
theorem advanceTimes_inv (i : Instr) (k : Nat) (s : State) (h : s.Inv)
    (hc : s.ph = .idle ∨ s.cur = some i) : (advanceTimes i k s).Inv := by
  induction k generalizing s with
  | zero => exact h
  | succ k ih =>
    by_cases hp : s.ph = .idle
    · rw [advanceTimes_idle _ _ _ hp]; exact h
    · have hc := hc.resolve_left hp
      exact ih _ (advance_inv i s h hc hp) (advance_cur i s hc)

/-- The invariant does not speak of the command port. -/
theorem inv_inbox (s : State) (l : List CommandWord)
    (h : s.Inv) : State.Inv { s with inbox := l } :=
  ⟨h.memory, h.rxSize, h.count, h.level, h.idle, h.busy, h.noError, h.waits, h.bus, h.chip⟩

end Sys2Proof.Machine
end

