-- ==== Sys2Proof/Tests/Slice0.lean ====
section
/-! SUPPORT. Tests on fixed values. Expected results come from the spec's own tables and vectors
(95_test_vectors and the rules named), never from the model. The `test_witness_` theorems show, for
each statement that has hypotheses, a concrete case that meets them all together. -/

namespace Sys2Proof.Tests

open Sys2Proof.Machine

/-! ## Well-formedness: each check refuses an ill-formed command (R73) -/

theorem test_wf_rdregs_address : Instr.wellFormed (.rdregs 0x10 1) = false := by decide
theorem test_wf_rdregs_length_zero : Instr.wellFormed (.rdregs 0x0F 0) = false := by decide
theorem test_wf_wrreg_below : Instr.wellFormed (.wrreg 0x7F 0) = false := by decide
theorem test_wf_wrreg_above : Instr.wellFormed (.wrreg 0x8A 0) = false := by decide
theorem test_wf_wrreg_bounds :
    Instr.wellFormed (.wrreg 0x80 0) = true ∧ Instr.wellFormed (.wrreg 0x89 0xFF) = true := by
  decide
theorem test_wf_rdregs_three : Instr.wellFormed (.rdregs 0x0F 3) = true := by
  have := three_le_maxLen
  simp [Instr.wellFormed, this]

/-- A length above `MAX_LEN` is refused, whatever `MAX_LEN` is below 255. -/
theorem test_wf_rdregs_length_above (h : Config.maxLen < 255) :
    Instr.wellFormed (.rdregs 0x00 0xFF) = false := by
  simp [Instr.wellFormed, h]

/-! ## Words of 95_test_vectors 2.5, written out bit by bit -/

theorem test_decode_init_default :
    decode 0b001_00000001_01000011#19 = .ok (.init .typeK .continuous .samples16) := by decide
theorem test_decode_init_j_oneshot_2 :
    decode 0b001_00000000_00010010#19 = .ok (.init .typeJ .oneShot .samples2) := by decide
theorem test_decode_init_t_cont_1 :
    decode 0b001_00000001_00000111#19 = .ok (.init .typeT .continuous .samples1) := by decide
theorem test_decode_rdregs :
    decode 0b010_00001010_00000010#19 = .ok (.rdregs 0x0A 0x02) := by decide
theorem test_decode_rdregs_cr0_16 :
    decode 0b010_00000000_00010000#19 = .ok (.rdregs 0x00 0x10) := by decide
theorem test_decode_wrreg :
    decode 0b011_10000010_11111111#19 = .ok (.wrreg 0x82 0xFF) := by decide
theorem test_decode_wrreg_cjoff :
    decode 0b011_10001001_00010000#19 = .ok (.wrreg 0x89 0x10) := by decide
theorem test_decode_rdcj : decode 0b100_00000000_00000000#19 = .ok .rdcj := by decide
theorem test_decode_rdtc : decode 0b101_00000000_00000000#19 = .ok .rdtc := by decide
theorem test_decode_rdflt : decode 0b110_00000000_00000000#19 = .ok .rdflt := by decide

theorem test_encode_words :
    encode (.init .typeK .continuous .samples16) = 0x10143#19 ∧
    encode (.rdregs 0x0C 0x03) = 0x20C03#19 ∧ encode (.wrreg 0x82 0xFF) = 0x382FF#19 ∧
    encode .rdcj = 0x40000#19 ∧ encode .rdtc = 0x50000#19 ∧ encode .rdflt = 0x60000#19 := by
  decide

/-! ## Every clause of the verdict on a word, at its bounds (R75, R168; 95_test_vectors 2.5) -/

theorem test_verdict_bad_op :
    assessWord 0x00000#19 = .error .badOp ∧ assessWord 0x70000#19 = .error .badOp := by decide
theorem test_verdict_bad_field :
    assessWord 0x10243#19 = .error .badField ∧ assessWord 0x40001#19 = .error .badField ∧
    assessWord 0x60100#19 = .error .badField := by decide
theorem test_verdict_bad_selector :
    assessWord 0x10153#19 = .error .badSelector ∧
    assessWord 0x10148#19 = .error .badSelector := by decide
theorem test_verdict_bad_address :
    assessWord 0x21001#19 = .error .badAddress ∧ assessWord 0x30A00#19 = .error .badAddress ∧
    assessWord 0x38A00#19 = .error .badAddress ∧
    assessWord 0x21000#19 = .error .badAddress := by decide
theorem test_verdict_bad_length : assessWord 0x20000#19 = .error .badLength := by decide
theorem test_verdict_legal :
    assessWord 0x10147#19 = .ok (.init .typeT .continuous .samples16) ∧
    assessWord 0x38000#19 = .ok (.wrreg 0x80 0x00) ∧ assessWord 0x60000#19 = .ok .rdflt := by
  decide

/-! ## The opcode table's words (INIT with every free bit 0, RDREGS, and a number wider than a
command) -/

theorem test_table_init :
    decodeTableWord 24 0x10000 = some (.init .typeB .oneShot .samples1) := by decide
theorem test_table_rdtc : decodeTableWord 24 0x50000 = some .rdtc := by decide
theorem test_table_too_wide : decodeTableWord 24 0xD0000 = none := by decide

/-- Right after reset the very next step runs the offered word. -/
theorem test_fetch_runs_next :
    step (State.reset.withFetchWord 24 0x10143) =
      exec (.init .typeK .continuous .samples16) State.reset := by rfl
theorem test_fetch_runs_next_rdregs :
    step (State.reset.withFetchWord 24 0x20A02) = exec (.rdregs 0x0A 2) State.reset := by rfl

/-! ## The assembler (R85, R89) -/

theorem test_assemble_rdregs :
    assemble (.rdregs (.symbol .LT_B2) 3) = some 0x20C03#19 := by decide
theorem test_assemble_wrreg :
    assemble (.wrreg (.symbol .CJOFF) 0x10) = some 0x38910#19 ∧
    assemble (.wrreg (.symbol .FLT) 0) = none := by decide

/-- The table of 95_test_vectors 2.4, with the codes it names. -/
theorem test_pack_cr1 :
    packCr1 0 7 = 0x07 ∧ packCr1 1 2 = 0x12 ∧ packCr1 2 1 = 0x21 ∧ packCr1 4 0 = 0x40 := by decide

/-! ## Decoder vectors (95_test_vectors 2.1 and 2.2) -/

theorem test_cj_vectors :
    (decCj 0x19 0x00).int = 1600 ∧ (decCj 0x80 0x00).int = -8192 ∧
    (decCj 0x7F 0xFF).int = 8191 ∧ (decCj 0xFF 0xFC).int = -1 ∧
    (decCj 0xAA 0x55).int = -5483 ∧ (decCj 0xAA 0x55).acc = 0x2A55 := by decide
theorem test_tc_vectors :
    (decTc 0x19 0x00 0x00).int = 51200 ∧ (decTc 0x80 0x00 0x1F).int = -262144 ∧
    (decTc 0x7F 0xFF 0xE0).int = 262143 ∧ (decTc 0xFF 0xFF 0xFF).int = -1 ∧
    (decTc 0xAA 0x55 0xAA).int = -175443 ∧ (decTc 0xAA 0x55 0xAA).acc = 0x2A55AA := by decide
theorem test_general_decode :
    dec 14 [0x55, 0xAA] = 5482 ∧ dec 19 [0x55, 0xAA, 0x55] = 175442 ∧
    dec 19 [0xFE, 0x70, 0x00] = -3200 := by decide
theorem test_wired_decode :
    (decCjWired 0xE7 0x00).toInt = -1600 ∧ (decTcWired 0xE7 0x00 0x00).toInt = -51200 := by
  decide

/-! ## One step of each command, on small states -/

/-- A constructed block whose transport gives these replies. -/
def ready (replies : List Reply) : State :=
  { State.reset with cfgd := true, replies := replies }

/-- A block after reset whose transport gives these replies. -/
def fresh (replies : List Reply) : State := { State.reset with replies := replies }

/-- Sixteen registers that hold 0x11 (program P8), but for these. -/
def regsWith (cells : List Host.Cell) : Memory :=
  cells.foldl (fun m c => m.put c.1 c.2) (Memory.ofFn fun _ => 0x11)

/-- A block in front of the reference chip with these registers. -/
def onChip (cfgd : Bool) (regs : Memory) : State :=
  { State.reset with cfgd := cfgd, far := .refChip, chip := { Chip.atReset with regs := regs } }

/-- A reply OK that lists these bytes. -/
def good (bytes : List Byte) : Reply := .ok ⟨7⟩ bytes

/-- What an outcome shows of its next state. -/
def seen {α : Type} (f : State → α) : Host.Outcome State Fault Refusal → Option α
  | .next t => some (f t)
  | .fault _ => none
  | .refused _ => none

/-- Program P1 (95_test_vectors 3): frame 0 to 0x80, frame 1 to 0x81, then OK. -/
theorem test_init_ok :
    seen (fun t => (t.responses, t.cfgd, t.cfg, csLevels t.events))
        (exec (.init .typeK .continuous .samples16) (fresh [good [], good []])) =
      some ([.ok .none], true, ⟨.typeK, .continuous, .samples16⟩,
        [.active, .inactive, .active, .inactive]) := by decide

/-- Program P7: the second write fails; cause code 2. -/
theorem test_init_second_fails :
    seen (fun t => (t.responses, t.cfgd, t.cs))
        (exec (.init .typeK .continuous .samples16) (fresh [good [], .fail ⟨5⟩])) =
      some ([.xfail ⟨1, .addr, ⟨5⟩⟩], false, .inactive) := by decide

/-- `RDREGS CJT_H, 2` of R114's worked example. -/
theorem test_rdregs_ok :
    seen (fun t => (t.responses, t.events))
        (exec (.rdregs 0x0A 2) (ready [good [], good [0x19, 0x00]])) =
      some ([.ok (.data [0x19, 0x00])],
        [.cs .active, .xw [0x0A] (.ok ⟨7⟩), .xr 2 (.ok [0x19, 0x00]), .cs .inactive]) := by
  decide

/-- `RDREGS FLT, 1` with a bad length is refused before any event. -/
theorem test_rdregs_bad_length :
    seen (fun t => (t.responses, t.events)) (exec (.rdregs 0x0F 0) (ready [])) =
      some ([.refused .badLength], []) := by decide

/-- `WRREG W_FMASK, 0xFF` of R115's worked example, under the reference chip. -/
theorem test_wrreg_chip :
    seen (fun t => (t.chip.regs.read 1, t.chip.regs.read 2, t.chip.regs.read 3, t.cs))
        (exec (.wrreg 0x82 0xFF) (onChip true (regsWith [(1, 0x43)]))) =
      some (some 0x43, some 0xFF, some 0x11, .inactive) := by decide

/-- A failed write leaves some byte in the register, and the others as they were (R165). -/
theorem test_wrreg_failed :
    seen (fun t => (t.chip.regs.wf, t.chip.regs.read 2, t.responses))
        (exec (.wrreg 0x81 0xFF)
          { onChip true (regsWith [(1, 0x43)]) with replies := [.fail ⟨9⟩] }) =
      some (true, some 0x11, [.xfail ⟨0, .addr, ⟨9⟩⟩]) := by decide

/-- Program P4 step 2: -1 from 0xFF, 0xFC. -/
theorem test_rdcj_negative :
    seen (·.responses) (exec .rdcj (ready [good [], good [0xFF, 0xFC]])) =
      some [.ok (.val 0x7FFFF)] := by decide

/-- Program P2 step 2, from the reference chip's registers 0x0A and 0x0B. -/
theorem test_rdcj_chip :
    seen (·.responses) (exec .rdcj (onChip true (regsWith [(0x0A, 0x19), (0x0B, 0x00)]))) =
      some [.ok (.val 1600)] := by decide

/-- Program P2 step 3. -/
theorem test_rdtc_chip :
    seen (·.responses) (exec .rdtc (onChip true (regsWith [(0x0C, 0x19), (0x0D, 0x00), (0x0E, 0x00)]))) =
      some [.ok (.val 51200)] := by decide

/-- Program P3 step 3: the `XR` fails; cause code 1. -/
theorem test_rdtc_read_fails :
    seen (fun t => (t.responses, t.events)) (exec .rdtc (ready [good [], .fail ⟨3⟩])) =
      some ([.xfail ⟨0, .data, ⟨3⟩⟩],
        [.cs .active, .xw [0x0C] (.ok ⟨7⟩), .xr 3 (.fail ⟨3⟩), .cs .inactive]) := by decide

/-- The worked example of R132, and a query before construction (program P3 step 1). -/
theorem test_rdflt_ok :
    seen (·.responses) (exec .rdflt (ready [good [], good [0x01]])) =
      some [.ok (.data [0x01])] := by decide
theorem test_rdflt_not_configured :
    seen (fun t => (t.responses, t.events)) (exec .rdflt (fresh [])) =
      some ([.refused .notConfigured], []) := by decide

/-- The hang of 95_test_vectors 2.7: `ph = DATA`, `cs = Active`, no response, no further step. -/
theorem test_rdcj_hang :
    seen (fun t => (t.ph, t.cs, t.responses, seen (·.ph) (step t)))
        (exec .rdcj (ready [good [], .never])) = some (.data, .active, [], none) := by decide

/-- The byte streams of a read frame, per direction (R117). -/
theorem test_byte_streams :
    seen (fun t => (bytesSent t.events, bytesReceived t.events))
        (exec .rdcj (ready [good [], good [0x19, 0x00]])) =
      some ([0x0A], [0x19, 0x00]) := by decide

/-! ## Witnesses: the command word -/

theorem test_witness_DecodeOfEncode : Instr.wellFormed (.wrreg 0x89 0xFF) = true := by decide
theorem test_witness_EncodeOfDecode : decode 0x20F01#19 = .ok (.rdregs 0x0F 0x01) := by decide
theorem test_witness_RegisterMapAddresses :
    RegName.writeAddress .CJOFF = some 0x89 ∧ inWaddr 0x89 = true ∧ inRaddr 0x0F = true := by
  decide
theorem test_witness_AdmissionByCfgd :
    Instr.wellFormed .rdflt = true ∧ Instr.wellFormed (.rdregs 0x0F 0) = false ∧
    (∀ tc mode avg, Instr.rdflt ≠ .init tc mode avg) :=
  ⟨by decide, by decide, fun _ _ _ h => nomatch h⟩

/-! ## Witnesses: the step -/

/-- A block with one word offered. -/
def offered (w : CommandWord) : State := { ready [] with inbox := [w] }

theorem test_witness_StepRunsTheOfferedCommand :
    (offered 0x40000).simulationStopped = false ∧ (offered 0x40000).refusedBefore = false ∧
    (offered 0x40000).ph = .idle ∧
    (offered 0x40000).inbox = 0x40000#19 :: [] ∧ decode 0x40000#19 = .ok .rdcj := by decide
theorem test_witness_OfferedTableWordRunsNext :
    (ready []).simulationStopped = false ∧ (ready []).refusedBefore = false ∧
    (ready []).ph = .idle ∧ decodeTableWord 24 0x60000 = some .rdflt := by decide
theorem test_witness_IllegalWordIsRefused :
    (offered 0x21000).simulationStopped = false ∧ (offered 0x21000).refusedBefore = false ∧
    (offered 0x21000).ph = .idle ∧
    (offered 0x21000).inbox = 0x21000#19 :: [] ∧
    assessWord 0x21000#19 = .error .badAddress := by decide
theorem test_witness_RefusedCommandChangesNothing :
    (ready []).ph = .idle ∧
    refusalReason (.init .typeB .oneShot .samples1) (ready []).cfgd = some .alreadyConfigured ∧
    (ready []).simulationStopped = false := by
  decide
theorem test_witness_IdleBlockAnswersEveryCommand : (ready []).ph = .idle := by decide

/-- A query before construction, and a legal command offered after it: REFUSED is delivered, and the run
has no meaning past it (R12, R167, U13). -/
theorem test_no_step_past_a_refusal :
    seen (fun t => (t.responses, t.inbox, seen (·.ph) (step t)))
        (step { State.reset with inbox := [0x40000, 0x10143] }) =
      some ([.refused .notConfigured], [0x10143], none) := by decide

/-- An RDCJ that is about to make its `XW`. -/
def midFrame : State := (advance .rdcj ((ready [good [], good [0x19, 0x00]]).begin .rdcj))

theorem test_witness_OnlyAnIdleBlockTakesACommand :
    midFrame.ph ≠ .idle ∧ (∃ t, step midFrame = .next t) ∧
    (ready []).simulationStopped = false ∧ (ready []).refusedBefore = false ∧
    (ready []).ph = .idle ∧ (ready []).inbox = [] :=
  ⟨by decide, ⟨_, rfl⟩, rfl, rfl, rfl, rfl⟩

/-! ## Witnesses: what each command does -/

theorem test_witness_InitConfiguresTheChip :
    (fresh [good [], good []]).ph = .idle ∧ (fresh [good [], good []]).cfgd = false ∧
    (fresh [good [], good []]).replyAt 0 = .ok ⟨7⟩ [] ∧
    (fresh [good [], good []]).replyAt 1 = .ok ⟨7⟩ [] := by decide
theorem test_witness_InitStopsAtTheFirstFailingFrame :
    (fresh [.fail ⟨5⟩]).ph = .idle ∧ (fresh [.fail ⟨5⟩]).cfgd = false ∧
    (fresh [.fail ⟨5⟩]).replyAt 0 = .fail ⟨5⟩ ∧
    (fresh [good [], .fail ⟨5⟩]).replyAt 0 = .ok ⟨7⟩ [] ∧
    (fresh [good [], .fail ⟨5⟩]).replyAt 1 = .fail ⟨5⟩ := by decide

/-- A constructed block whose first read is answered. -/
def readable : State := ready [good [], good [0x19, 0x00, 0x00]]

/-- Both ends of the address range, and the longest length that is legal whatever `MAX_LEN` is. -/
theorem test_witness_RdregsReturnsTheRegisters :
    readable.ph = .idle ∧ readable.cfgd = true ∧ (0x0F#8).toNat ≤ 0x0F ∧ 1 ≤ (3#8).toNat ∧
    (3#8).toNat ≤ Config.maxLen ∧ readable.replyAt 0 = .ok ⟨7⟩ [] ∧
    readable.replyAt 1 = .ok ⟨7⟩ [0x19, 0x00, 0x00] :=
  ⟨by decide, by decide, by decide, by decide, three_le_maxLen, by decide, by decide⟩
theorem test_witness_queries :
    readable.ph = .idle ∧ readable.cfgd = true ∧ readable.replyAt 0 = .ok ⟨7⟩ [] ∧
    readable.replyAt 1 = .ok ⟨7⟩ [0x19, 0x00, 0x00] := by decide
theorem test_witness_WrregSendsAddressAndValue :
    readable.ph = .idle ∧ readable.cfgd = true ∧ 0x80 ≤ (0x89#8).toNat ∧ (0x89#8).toNat ≤ 0x89 ∧
    readable.replyAt 0 = .ok ⟨7⟩ [] := by decide

/-! ## Witnesses: failure and hang -/

theorem test_witness_FailedAddressWriteReleasesAndReports :
    (ready [.fail ⟨5⟩]).ph = .idle ∧ refusalReason .rdtc (ready [.fail ⟨5⟩]).cfgd = none ∧
    (ready [.fail ⟨5⟩]).replyAt 0 = .fail ⟨5⟩ ∧ frameOf .rdtc 0 = .read 0x0C 3 ∧
    frameOf (.wrreg 0x89 1) 0 = .write 0x89 1 := by decide
theorem test_witness_FailedReadReleasesAndReports :
    (ready [good [], .fail ⟨5⟩]).ph = .idle ∧
    refusalReason .rdflt (ready [good [], .fail ⟨5⟩]).cfgd = none ∧
    frameOf .rdflt 0 = .read 0x0F 1 ∧ (ready [good [], .fail ⟨5⟩]).replyAt 0 = .ok ⟨7⟩ [] ∧
    (ready [good [], .fail ⟨5⟩]).replyAt 1 = .fail ⟨5⟩ := by decide
theorem test_witness_HungCallLeavesNoStep :
    (ready [.never]).ph = .idle ∧ refusalReason .rdcj (ready [.never]).cfgd = none ∧
    frameOf .rdcj 0 = .read 0x0A 2 ∧ (ready [.never]).replyAt 0 = .never ∧
    (ready [good [], .never]).replyAt 0 = .ok ⟨7⟩ [] ∧
    (ready [good [], .never]).replyAt 1 = .never := by decide
theorem test_witness_HungWriteLeavesNoStep :
    (fresh [.never]).ph = .idle ∧
    refusalReason (.init .typeK .oneShot .samples1) (fresh [.never]).cfgd = none ∧
    isInit (.init .typeK .oneShot .samples1) = true ∧ (fresh [.never]).replyAt 0 = .never ∧
    (fresh [good [], .never]).replyAt 0 = .ok ⟨7⟩ [] ∧
    (fresh [good [], .never]).replyAt 1 = .never ∧
    refusalReason (.wrreg 0x80 0) (ready [.never]).cfgd = none := by decide
theorem test_witness_frameOf_init :
    frameOf (.init .typeK .oneShot .samples1) 0 = .write 0x80 (Config.cr0Code .oneShot) ∧
    frameOf (.init .typeK .oneShot .samples1) 1 = .write 0x81 (cr1Value .samples1 .typeK) :=
  ⟨rfl, rfl⟩

/-! ## Witnesses: the frame primitives -/

theorem test_witness_ReadFrameRegisters :
    3 ≤ Config.maxLen ∧ readable.replyAt 0 = .ok ⟨7⟩ [] ∧
    readable.replyAt 1 = .ok ⟨7⟩ [0x19, 0x00, 0x00] ∧
    (ready [good [], .fail ⟨5⟩]).replyAt 1 = .fail ⟨5⟩ ∧
    (ready [.fail ⟨5⟩]).replyAt 0 = .fail ⟨5⟩ :=
  ⟨three_le_maxLen, by decide, by decide, by decide, by decide⟩
theorem test_witness_WriteFrameRegisters :
    readable.replyAt 0 = .ok ⟨7⟩ [] ∧ (ready [.fail ⟨5⟩]).replyAt 0 = .fail ⟨5⟩ := by decide

/-! ## Witnesses: frames -/

theorem test_witness_OnlyInitWritesTheConfiguration :
    (∀ tc mode avg, Instr.wrreg 0x80 0 ≠ .init tc mode avg) ∧
    ∃ t, exec (.wrreg 0x80 0) readable = .next t := ⟨(fun _ _ _ h => nomatch h), _, rfl⟩
theorem test_witness_OnlyNamedChipRegistersChange :
    (∃ t, exec (.wrreg 0x80 0) (onChip true (regsWith [(0x0F, 1)])) = .next t) ∧
    (∀ q a v, frameOf (.wrreg 0x80 0) q = .write a v → registerNumber a ≠ 9) ∧
    (onChip true (regsWith [(0x0F, 1)])).chip.conversions = [] ∧ readable.far = .oracle :=
  ⟨⟨_, rfl⟩, by intro q a v h; cases h; decide, rfl, rfl⟩
theorem test_witness_ConfigurationIsWrittenOnce :
    (∃ t, exec (.init .typeK .oneShot .samples1) (fresh [good [], good []]) = .next t ∧
      t.cfgd = true) ∧ (fresh [good [], good []]).cfgd = false := ⟨⟨_, rfl, rfl⟩, rfl⟩

/-- A constructed block whose chip holds what its configuration makes of CR0 and CR1. -/
def matching : State :=
  onChip true (regsWith [(0, Config.cr0Code .oneShot), (1, cr1Value .samples1 .typeB)])

theorem test_witness_ConfigurationMatchesUnlessWrregRewritesIt :
    matching.configMatches ∧ (∀ v, Instr.rdflt ≠ .wrreg 0x80 v ∧ Instr.rdflt ≠ .wrreg 0x81 v) ∧
    (∃ t, exec .rdflt matching = .next t) ∧ matching.ph = .idle ∧
    (∃ r b, matching.replyAt 0 = .ok r b) ∧
    Config.cr0Code .oneShot + 1 ≠ Config.cr0Code matching.cfg.mode :=
  ⟨⟨rfl, rfl, rfl, rfl⟩, fun _ => ⟨(fun h => nomatch h), (fun h => nomatch h)⟩, ⟨_, rfl⟩, rfl,
    ⟨_, _, rfl⟩, by
      show Config.cr0Code .oneShot + 1 ≠ Config.cr0Code .oneShot
      generalize Config.cr0Code .oneShot = b
      revert b
      decide⟩

/-- A constructed block in front of the chip as it is at reset. -/
def unknownChip : State := onChip true (Memory.ofFn Config.powerOn)

/-- The last register of the map and two bytes from beyond it, with nothing known of the register. -/
theorem test_witness_RepeatedReadsAgree :
    unknownChip.ph = .idle ∧ unknownChip.cfgd = true ∧ unknownChip.far = .refChip ∧
    unknownChip.replies = [] ∧ unknownChip.chip.conversions = [] ∧ 1 ≤ (3#8).toNat ∧
    (3#8).toNat ≤ Config.maxLen ∧ (0x0F#8).toNat ≤ 0x0F ∧ unknownChip.chip.regs.wf = true :=
  ⟨rfl, rfl, rfl, rfl, rfl, by decide, three_le_maxLen, by decide, rfl⟩

/-- A constructed block in front of the reference chip, with a failure put in at the transport. -/
def lossy : State := { onChip true (regsWith []) with replies := [.fail ⟨5⟩] }

theorem test_witness_WrregWritesOneChipRegister :
    (onChip true (regsWith [])).ph = .idle ∧ (onChip true (regsWith [])).cfgd = true ∧
    (onChip true (regsWith [])).far = .refChip ∧ 0x80 ≤ (0x80#8).toNat ∧ (0x80#8).toNat ≤ 0x89 ∧
    (∃ r b, (onChip true (regsWith [])).replyAt 0 = .ok r b) ∧ (onChip true (regsWith [])).chip.conversions = [] ∧
    (∀ r b, lossy.replyAt 0 ≠ .ok r b) :=
  ⟨by decide, by decide, by decide, by decide, by decide, ⟨_, _, rfl⟩, by decide,
    fun _ _ h => nomatch h⟩
theorem test_witness_InitWritesCr0AndCr1Only :
    (onChip false (regsWith [])).ph = .idle ∧ (onChip false (regsWith [])).cfgd = false ∧
    (onChip false (regsWith [])).far = .refChip ∧ (∃ r b, (onChip false (regsWith [])).replyAt 0 = .ok r b) ∧
    (∃ r b, (onChip false (regsWith [])).replyAt 1 = .ok r b) ∧ (onChip false (regsWith [])).chip.conversions = [] :=
  ⟨by decide, by decide, by decide, ⟨_, _, rfl⟩, ⟨_, _, rfl⟩, by decide⟩
theorem test_witness_WrittenRegisterReadsBack :
    (onChip true (regsWith [])).ph = .idle ∧ (onChip true (regsWith [])).cfgd = true ∧
    (onChip true (regsWith [])).far = .refChip ∧ (onChip true (regsWith [])).replies = [] ∧ 0x80 ≤ (0x89#8).toNat ∧
    (0x89#8).toNat ≤ 0x89 := by decide

/-! ## Witnesses: equivalences and whole-machine rules -/

/-- One clause each: a read that ends OK, and one that does not. -/
theorem test_witness_QueriesAreRegisterReads :
    readable.ph = .idle ∧
    seen (·.responses) (exec (.rdregs 0x0A 2) readable) = some [.ok (.data [0x19, 0x00])] ∧
    seen (·.responses) (exec (.rdregs 0x0A 2) (ready [.fail ⟨5⟩])) =
      some [.xfail ⟨0, .addr, ⟨5⟩⟩] := by decide
theorem test_witness_InitTraceIsTwoRegisterWrites :
    (fresh [good [], good []]).ph = .idle ∧ (fresh [good [], good []]).cfgd = false ∧
    (fresh [good [], good []]).replies = .ok ⟨7⟩ [] :: .ok ⟨7⟩ [] :: [] := by decide
theorem test_witness_MeaningsRefineTheSequencer :
    readable.ph = .idle ∧ refusalReason .rdtc readable.cfgd = none := by decide

/-- One state in each phase, none waiting. -/
theorem test_witness_SequencerRows :
    (readable.begin .rdcj).ph = .sel ∧ midFrame.ph = .addr ∧ midFrame.waiting = false ∧
    (advance .rdcj midFrame).ph = .data ∧ (advance .rdcj (advance .rdcj midFrame)).ph = .rel ∧
    (advance .rdcj (advance .rdcj midFrame)).waiting = false := by decide

/-- A state inside a frame meets the invariant and has a step. -/
theorem test_witness_StepKeepsTheInvariant :
    (readable.begin .rdcj).Inv ∧ ∃ t, step (readable.begin .rdcj) = .next t := by
  have h : readable.Inv :=
    { memory := rfl
      rxSize := List.length_replicate
      count := Nat.zero_le _
      level := rfl
      idle := fun _ => ⟨rfl, rfl⟩
      busy := fun h => absurd rfl h
      noError := by decide
      waits := by decide
      bus := rfl
      chip := fun h => nomatch h }
  exact ⟨begin_inv .rdcj readable h rfl rfl, _, rfl⟩

/-- A block after one RDFLT. -/
def afterRead : State :=
  { ready [] with
    events := [.cs .active, .xw [0x0F] (.ok ⟨7⟩), .xr 1 (.ok [0x01]), .cs .inactive]
    responses := [.ok (.data [0x01])] }

theorem test_witness_afterRead_inv :
    afterRead.Inv ∧ afterRead.ph = .idle ∧ afterRead.cfgd = true ∧
    Event.xw [0x0F] (.ok ⟨7⟩) ∈ afterRead.events ∧ (∃ t, step afterRead = .next t) :=
  ⟨{ memory := rfl
     rxSize := List.length_replicate
     count := Nat.zero_le _
     level := rfl
     idle := fun _ => ⟨rfl, rfl⟩
     busy := fun h => absurd rfl h
     noError := by decide
     waits := by decide
     bus := by decide
     chip := fun h => nomatch h }, rfl, rfl, by decide, _, rfl⟩

/-- The other clauses of the progress statement: a state that waits, and one past a refusal. -/
theorem test_witness_StepStopsOnlyOnAHangOrPastARefusal :
    seen (fun t => (t.waiting, t.refusedBefore)) (exec .rdcj (ready [.never])) =
      some (true, false) ∧
    seen (fun t => t.refusedBefore) (exec .rdcj (fresh [])) = some true := by
  decide
theorem test_witness_NoCommandReadsStaleData : ∃ t, exec .rdtc readable = .next t := ⟨_, rfl⟩
theorem test_witness_HistoryOnlyGrows :
    ∃ t, step { afterRead with responses := [.xfail ⟨0, .addr, ⟨5⟩⟩] } = .next t :=
  ⟨_, rfl⟩
theorem test_witness_OneResponsePerCommand :
    seen (fun t => (t.ph, t.responses.length)) (exec .rdtc readable) = some (.idle, 1) ∧
    seen (fun t => (t.waiting, t.responses)) (exec .rdtc (ready [.never])) = some (true, []) := by
  decide
theorem test_witness_HostResetValues : afterRead.ph = .idle ∧ midFrame.ph ≠ .idle := by decide

/-! ## Witnesses: the decoder -/

/-- Both instances, and the bounds `W = 8*N` and `W = 1` of the general decode. -/
theorem test_witness_general_decode :
    1 ≤ 14 ∧ 14 ≤ 8 * [0x80#8, 0x00#8].length ∧ 8 * [0x80#8, 0x00#8].length - 14 ≤ 7 ∧
    19 ≤ 8 * [0x80#8, 0x00#8, 0x00#8].length ∧
    8 * [0x80#8, 0x00#8, 0x00#8].length - 19 ≤ 7 ∧ 8 * [0xFF#8].length - 8 ≤ 7 ∧
    8 * [0xFF#8].length - 1 ≤ 7 := by decide
theorem test_witness_DecodeIsFloorAndMonotone :
    [0x80#8, 0x03#8].length = [0x7F#8, 0xFC#8].length ∧
    signedOf 16 (container [0x80, 0x03]) ≤ signedOf 16 (container [0x7F, 0xFC]) := by decide
theorem test_witness_DecodersAreOntoUpToPadding :
    (decCj 0x80 0x03).int = -8192 ∧ (decCj 0x7F 0xFC).int = 8191 ∧
    (decTc 0x80 0x00 0x1F).int = -262144 ∧ (decTc 0x7F 0xFF 0xE0).int = 262143 := by decide

end Sys2Proof.Tests
end

/-! PROOFS. What the scope says of a step (R12, R118, R167, R173): which states have one, and what a
refused command or an illegal word leaves behind. -/

namespace Sys2Proof.Machine

/-! ## The invariant, as far as the scope needs it -/

/-- Under the invariant the reference chip has not been used outside its definition (R61). -/
theorem State.Inv.simulationStopped_eq_false {s : State} (h : s.Inv) :
    s.simulationStopped = false := by
  cases hf : s.far with
  | oracle => simp [State.simulationStopped, hf]
  | refChip =>
    obtain ⟨hchip, -⟩ := h.chip hf
    simp [State.simulationStopped, hchip]

/-- A block that waits on a transport call is inside a command (R24, R118). -/
theorem State.Inv.ph_ne_idle_of_waiting {s : State} (h : s.Inv) (hw : s.waiting = true) :
    s.ph ≠ .idle := by
  intro hidle
  obtain ⟨-, hnot⟩ := h.idle hidle
  simp [hnot] at hw

/-! ## Refusals -/

@[simp] theorem refuse_simulationStopped (s : State) (r : Reason) :
    (s.refuse r).simulationStopped = s.simulationStopped := rfl

/-- The run has no meaning past the refusal of a command (R12, R167). -/
theorem step_refuse (s : State) (r : Reason) (h : s.simulationStopped = false) :
    step (s.refuse r) = .refused .pastRefusedCommand :=
  step_past_refusal (s.refuse r) (by simpa using h) (refuse_refusedBefore s r)

/-- An illegal command is refused as illegal, whether it would be admitted or not (R166). -/
theorem refusalReason_of_illegalReason {i : Instr} {r : Reason} (h : illegalReason i = some r)
    (cfgd : Bool) : refusalReason i cfgd = some r := by
  simp [refusalReason, h]

theorem exec_refused {i : Instr} {s : State} {r : Reason} (hidle : s.ph = .idle)
    (hr : refusalReason i s.cfgd = some r) : exec i s = .next (s.refuse r) := by
  rw [exec_eq_command]
  exact command_refused i s _ r hidle hr

/-- A word is illegal because the decoder refuses it, or because the command it decodes to is
illegal (R75, R168). -/
theorem assessWord_eq_error {w : CommandWord} {r : Reason} (h : assessWord w = .error r) :
    decode w = .error r ∨ ∃ i, decode w = .ok i ∧ illegalReason i = some r := by
  unfold assessWord at h
  cases hd : decode w with
  | error r' => simpa [hd] using h
  | ok i =>
    cases hi : illegalReason i with
    | none => simp [hd, hi] at h
    | some r' => exact .inr ⟨i, rfl, by simpa [hd, hi] using h⟩

/-! ## An idle block answers every command -/

/-- Refused or run, a command offered to an idle block has a next state. -/
theorem exec_next_of_idle (i : Instr) {s : State} (hidle : s.ph = .idle) :
    ∃ t, exec i s = .next t := by
  obtain ⟨hbusy, -⟩ | ⟨r, -, -, he⟩ | ⟨-, -, he⟩ := exec_cases i s
  · exact absurd hidle hbusy
  · exact ⟨_, he⟩
  · exact ⟨_, he⟩

/-! ## The step, one equation per case -/

section StepEquations

variable {s : State} (hstop : s.simulationStopped = false) (href : s.refusedBefore = false)
include hstop href

theorem step_idle_of_nothing_offered (hidle : s.ph = .idle) (hin : s.inbox = []) :
    step s = .next s := by
  simp [step, hstop, href, hidle, State.takeWord, hin]

theorem step_idle_of_decode_error {w : CommandWord} {rest : List CommandWord} {r : Reason}
    (hidle : s.ph = .idle) (hin : s.inbox = w :: rest) (hd : decode w = .error r) :
    step s = .next (({ s with inbox := rest } : State).refuse r) := by
  simp [step, hstop, href, hidle, State.takeWord, hin, hd]

theorem step_idle_of_decode_ok {w : CommandWord} {rest : List CommandWord} {i : Instr}
    (hidle : s.ph = .idle) (hin : s.inbox = w :: rest) (hd : decode w = .ok i) :
    step s = exec i { s with inbox := rest } := by
  simp [step, hstop, href, hidle, State.takeWord, hin, hd]

theorem step_busy_of_waiting (hbusy : s.ph ≠ .idle) (hw : s.waiting = true) :
    step s = .fault .transportHang := by
  simp [step, hstop, href, hbusy, hw]

theorem step_busy_of_not_waiting {i : Instr} (hbusy : s.ph ≠ .idle) (hw : s.waiting = false)
    (hcur : s.cur = some i) : step s = .next (advance i s) := by
  simp [step, hstop, href, hbusy, hw, hcur]

/-- An idle block has a step whatever the host offers. -/
theorem step_next_of_idle (hidle : s.ph = .idle) : ∃ t, step s = .next t := by
  cases hin : s.inbox with
  | nil => exact ⟨_, step_idle_of_nothing_offered hstop href hidle hin⟩
  | cons w rest =>
    cases hd : decode w with
    | error r => exact ⟨_, step_idle_of_decode_error hstop href hidle hin hd⟩
    | ok i =>
      rw [step_idle_of_decode_ok hstop href hidle hin hd]
      exact exec_next_of_idle i hidle

/-- Whether the decoder or the command finds an offered word illegal, the step takes the word and
refuses it with that reason (R75, R167). -/
theorem step_idle_of_illegal_word {w : CommandWord} {rest : List CommandWord} {r : Reason}
    (hidle : s.ph = .idle) (hin : s.inbox = w :: rest) (hw : assessWord w = .error r) :
    step s = .next (({ s with inbox := rest } : State).refuse r) := by
  obtain hd | ⟨i, hd, hi⟩ := assessWord_eq_error hw
  · exact step_idle_of_decode_error hstop href hidle hin hd
  · rw [step_idle_of_decode_ok hstop href hidle hin hd]
    exact exec_refused hidle (refusalReason_of_illegalReason hi _)

end StepEquations

/-! ## The statements -/

/-- Settles O43: an idle block always has a step; a busy one advances its command unless it
waits. -/
theorem stepStopsOnlyOnAHangOrPastARefusal :
    Obligations.StepStopsOnlyOnAHangOrPastARefusal := by
  intro s hinv
  have hstop := hinv.simulationStopped_eq_false
  refine ⟨fun href => step_past_refusal s hstop href, fun href hw => ?_, fun href hw => ?_⟩
  · exact step_busy_of_waiting hstop href (hinv.ph_ne_idle_of_waiting hw) hw
  · by_cases hidle : s.ph = .idle
    · exact step_next_of_idle hstop href hidle
    · obtain ⟨i, hcur, -⟩ := hinv.busy hidle
      exact ⟨_, step_busy_of_not_waiting hstop href hidle hw hcur⟩

/-- Settles O11: the step refuses the word, and a refusal is followed by no step. -/
theorem illegalWordIsRefused : Obligations.IllegalWordIsRefused := by
  intro s w rest r hstop href hidle hin hw
  exact ⟨_, step_idle_of_illegal_word hstop href hidle hin hw, rfl, step_refuse _ r hstop⟩

/-- Settles O12: the command's meaning is the refusal, which is followed by no step. -/
theorem refusedCommandChangesNothing : Obligations.RefusedCommandChangesNothing := by
  intro i s r hidle hr
  exact ⟨_, exec_refused hidle hr, rfl, step_refuse s r⟩

/-- Settles O15: the template of a command answers an idle block with a refusal or its body. -/
theorem idleBlockAnswersEveryCommand : Obligations.IdleBlockAnswersEveryCommand :=
  fun i _ hidle => exec_next_of_idle i hidle

end Sys2Proof.Machine

/-! PROOFS. A command as its frames, and the frames as rows of R120: the meanings agree with the
sequencer (R24, R120, D31). -/

namespace Sys2Proof.Machine

/-! ## A command is its frames -/

/-- One frame of a command; a read frame runs with its own byte count (R111, R112, R114). -/
def runFrame (f : Frame) (s : State) : FrameEnd × State :=
  match f with
  | .read a n => rframe a n (s.setN n)
  | .write a v => wframe a v s

/-- What follows the last frame a command starts: nothing after a call that never returns, XFAIL
with the frame's index after a failure, else the command's own end (R118, R164). -/
def endCommand (i : Instr) (q : Fin 2) : FrameEnd × State → State
  | (.hang, t) => t
  | (.fail, t) => t.raiseXfail q
  | (.ok, t) => finishCommand i t

/-- Every command but INIT is one frame and its end (R86, R114, R115, R130 to R132). -/
theorem commandBody_of_not_init {i : Instr} (hi : isInit i = false) (s : State) :
    commandBody i s = endCommand i 0 (runFrame (frameOf i 0) s) := by
  cases i with
  | init tc mode avg => cases hi
  | rdregs addr len => rfl
  | wrreg addr val => rfl
  | rdcj => rfl
  | rdtc => rfl
  | rdflt => rfl

/-- After a first frame that is not good INIT ends, else it runs its second frame (R100, R103). -/
def initAfterFirst (tc : ThermoType) (mode : ConvMode) (avg : Averaging) :
    FrameEnd × State → State
  | (.hang, t) => t
  | (.fail, t) => t.raiseXfail 0
  | (.ok, t) =>
    endCommand (.init tc mode avg) 1 (wframe addrWriteCr1 (cr1Value avg tc) (t.setSeq 1))

theorem commandBody_init (tc : ThermoType) (mode : ConvMode) (avg : Averaging) (s : State) :
    commandBody (.init tc mode avg) s =
      initAfterFirst tc mode avg (wframe addrWriteCr0 (Config.cr0Code mode) (s.setSeq 0)) := rfl

/-- Only INIT's frame depends on its frame counter (R25). -/
theorem frameOf_of_not_init {i : Instr} (hi : isInit i = false) (q : Fin 2) :
    frameOf i q = frameOf i 0 := by
  cases i with
  | init tc mode avg => cases hi
  | rdregs addr len => rfl
  | wrreg addr val => rfl
  | rdcj => rfl
  | rdtc => rfl
  | rdflt => rfl

/-! ## The frames are rows of the sequencer -/

/-- After a good write frame no call is awaited and `err` is as it was (R112). -/
theorem wframe_ok_err_waiting {a v : Byte} {s t : State} (h : wframe a v s = (.ok, t)) :
    t.work.err = s.work.err ∧ t.waiting = false := by
  cases h0 : s.replyAt 0 with
  | never => rw [wframe_hang a v s h0] at h; cases h
  | fail e => rw [wframe_fail a v s e h0] at h; cases h
  | ok r b =>
    rw [wframe_ok a v s r b h0] at h
    cases h
    simp [release_eq, writeReady, h0, writeAnswer, CallResult.isPending]

/-- The one frame of a command other than INIT takes at most four rows. -/
theorem advanceTimes_begin_of_not_init {i : Instr} (hi : isInit i = false) (s : State) :
    advanceTimes i 6 (s.begin i) = endCommand i 0 (runFrame (frameOf i 0) (s.accept i)) := by
  cases hf : frameOf i 0 with
  | read a n =>
    have hbegin : s.begin i = ((s.accept i).setN n).setPh .sel := by simp [State.begin, hi, hf]
    rw [hbegin, advance_read_frame i a n 2 _ hi (fun q => (frameOf_of_not_init hi q).trans hf)
      rfl rfl rfl]
    rfl
  | write a v =>
    have hbegin : s.begin i = (s.accept i).setPh .sel := by simp [State.begin, hi, hf]
    have hf' : frameOf i (s.accept i).work.seq = .write a v :=
      (frameOf_of_not_init hi _).trans hf
    rw [hbegin, advance_write_frame i a v 3 _ hf' rfl rfl]
    simp only [hi, frameIndex, Bool.false_eq_true, false_and, if_false]
    rfl

/-- INIT's two frames take three rows each. -/
theorem advanceTimes_begin_init (tc : ThermoType) (mode : ConvMode) (avg : Averaging) (s : State) :
    advanceTimes (.init tc mode avg) 6 (s.begin (.init tc mode avg)) =
      commandBody (.init tc mode avg) (s.accept (.init tc mode avg)) := by
  have hbegin : s.begin (.init tc mode avg) =
    ((s.accept (.init tc mode avg)).setSeq 0).setPh .sel := rfl
  rw [hbegin, commandBody_init,
    advance_write_frame _ addrWriteCr0 (Config.cr0Code mode) 3 _ rfl rfl rfl]
  match hw : wframe addrWriteCr0 (Config.cr0Code mode)
    ((s.accept (.init tc mode avg)).setSeq 0) with
  | (.hang, t) => rfl
  | (.fail, t) => rfl
  | (.ok, t) =>
    obtain ⟨herr, hwait⟩ := wframe_ok_err_waiting hw
    show advanceTimes _ (0 + 3) ((t.setSeq 1).setPh .sel) = _
    rw [advance_write_frame _ addrWriteCr1 (cr1Value avg tc) 0 (t.setSeq 1) rfl herr hwait]
    rfl

/-- An admitted command run as one piece ends where six rows of R120 end, from its first phase. -/
theorem commandBody_eq_advanceTimes (i : Instr) (s : State) :
    commandBody i (s.accept i) = advanceTimes i 6 (s.begin i) := by
  cases hi : isInit i with
  | false => rw [advanceTimes_begin_of_not_init hi, commandBody_of_not_init hi]
  | true =>
    cases i with
    | init tc mode avg => exact (advanceTimes_begin_init tc mode avg s).symm
    | rdregs addr len => cases hi
    | wrreg addr val => cases hi
    | rdcj => cases hi
    | rdtc => cases hi
    | rdflt => cases hi

theorem exec_admitted {i : Instr} {s : State} (hidle : s.ph = .idle)
    (hr : refusalReason i s.cfgd = none) : exec i s = .next (commandBody i (s.accept i)) := by
  rw [exec_eq_command]
  exact command_admitted i s _ hidle hr

/-- Settles O39: a frame is at most four rows, and INIT's second frame starts where its first one
ends. -/
theorem meaningsRefineTheSequencer : Obligations.MeaningsRefineTheSequencer := by
  intro i s hidle hr
  rw [exec_admitted hidle hr, commandBody_eq_advanceTimes]

/-! ## Every step keeps the invariant -/

/-- The invariant does not speak of the responses. -/
theorem State.Inv.refuse {s : State} (h : s.Inv) (r : Reason) : (s.refuse r).Inv :=
  ⟨h.memory, h.rxSize, h.count, h.level, h.idle, h.busy, h.noError, h.waits, h.bus, h.chip⟩

/-- Every command keeps the invariant: a refusal changes the responses alone, and an admitted
command is rows of R120 from its first phase. -/
theorem exec_inv {i : Instr} {s t : State} (h : s.Inv) (he : exec i s = .next t) : t.Inv := by
  obtain ⟨-, hx⟩ | ⟨r, -, -, hx⟩ | ⟨hidle, hr, hx⟩ := exec_cases i s <;> rw [hx] at he <;> cases he
  · exact h.refuse r
  · rw [commandBody_eq_advanceTimes]
    exact advanceTimes_inv i 6 _ (begin_inv i s h hidle hr) (.inr (begin_cur i s))

/-- All that a step can do: an idle block waits, refuses a word that does not decode, or runs the
command of the word; a busy one goes on by one row (R24, R120, R186). -/
theorem step_cases {s t : State} (h : step s = .next t) :
    (s.ph = .idle ∧ t = s) ∨
    (∃ w rest r, s.ph = .idle ∧ s.inbox = w :: rest ∧ decode w = .error r ∧
      t = ({ s with inbox := rest } : State).refuse r) ∨
    (∃ w rest i, s.ph = .idle ∧ s.inbox = w :: rest ∧ decode w = .ok i ∧
      exec i { s with inbox := rest } = .next t) ∨
    (∃ i, s.ph ≠ .idle ∧ s.waiting = false ∧ s.cur = some i ∧ t = advance i s) := by
  have hstop : s.simulationStopped = false := by
    cases hs : s.simulationStopped with
    | false => rfl
    | true => simp [step, hs] at h
  have href : s.refusedBefore = false := by
    cases hr : s.refusedBefore with
    | false => rfl
    | true => rw [step_past_refusal s hstop hr] at h; cases h
  by_cases hidle : s.ph = .idle
  · cases hin : s.inbox with
    | nil =>
      rw [step_idle_of_nothing_offered hstop href hidle hin] at h
      cases h
      exact .inl ⟨hidle, rfl⟩
    | cons w rest =>
      cases hd : decode w with
      | error r =>
        rw [step_idle_of_decode_error hstop href hidle hin hd] at h
        cases h
        exact .inr (.inl ⟨w, rest, r, hidle, rfl, hd, rfl⟩)
      | ok i =>
        rw [step_idle_of_decode_ok hstop href hidle hin hd] at h
        exact .inr (.inr (.inl ⟨w, rest, i, hidle, rfl, hd, h⟩))
  · cases hw : s.waiting with
    | true => rw [step_busy_of_waiting hstop href hidle hw] at h; cases h
    | false =>
      cases hcur : s.cur with
      | none => simp [step, hstop, href, hidle, hw, hcur] at h
      | some i =>
        rw [step_busy_of_not_waiting hstop href hidle hw hcur] at h
        cases h
        exact .inr (.inr (.inr ⟨i, hidle, rfl, rfl, rfl⟩))

/-- Settles O41: a whole command keeps the invariant, and so does one row of R120. -/
theorem stepKeepsTheInvariant : Obligations.StepKeepsTheInvariant := by
  intro s t h hstep
  obtain ⟨-, rfl⟩ | ⟨w, rest, r, -, -, -, rfl⟩ | ⟨w, rest, i, -, -, -, he⟩ |
    ⟨i, hbusy, -, hcur, rfl⟩ := step_cases hstep
  · exact h
  · exact (inv_inbox s rest h).refuse r
  · exact exec_inv (inv_inbox s rest h) he
  · exact advance_inv i s h hcur hbusy

/-- Settles O42. -/
theorem resetMeetsTheInvariant : Obligations.ResetMeetsTheInvariant where
  memory := Memory.wf_ofFn _
  rxSize := List.length_replicate
  count := Nat.zero_le _
  level := rfl
  idle _ := ⟨rfl, rfl⟩
  busy h := absurd rfl h
  noError h := by simp at h
  waits h := by simp at h
  bus := rfl
  chip h := by simp at h

end Sys2Proof.Machine

/-! PROOFS. Admission (R22, R166, R168), and the rows of the transition table: what each leaves of
the registers, the ports and the history (R24, R120). -/

namespace Sys2Proof.Machine

/-! ## Admission -/

theorem admissionReason_eq_none {i : Instr} {cfgd : Bool} :
    admissionReason i cfgd = none ↔ cfgd = !isInit i := by
  unfold admissionReason
  cases isInit i <;> cases cfgd <;> simp

/-- A command is admitted exactly when it is legal and `cfgd` is 0 for INIT, 1 for every other
(R22, R166). -/
theorem refusalReason_eq_none {i : Instr} {cfgd : Bool} :
    refusalReason i cfgd = none ↔ i.wellFormed = true ∧ cfgd = !isInit i := by
  rw [wellFormed_iff_legal, ← admissionReason_eq_none]
  cases hl : illegalReason i with
  | none => simp [refusalReason, hl]
  | some r => simp [refusalReason, hl]

theorem isInit_eq_false {i : Instr} (h : ∀ tc mode avg, i ≠ .init tc mode avg) :
    isInit i = false := by
  cases i with
  | init tc mode avg => exact absurd rfl (h tc mode avg)
  | rdregs addr len => rfl
  | wrreg addr val => rfl
  | rdcj => rfl
  | rdtc => rfl
  | rdflt => rfl

theorem eq_init_of_isInit {i : Instr} (h : isInit i = true) :
    ∃ tc mode avg, i = .init tc mode avg := by
  by_contra hne
  push Not at hne
  simp [isInit_eq_false hne] at h

/-- A command that is not legal has a bad address or a bad length; the other reasons of R168 are
the decoder's. -/
theorem illegalReason_of_not_wellFormed {i : Instr} (h : i.wellFormed = false) :
    illegalReason i = some .badAddress ∨ illegalReason i = some .badLength := by
  have hne : illegalReason i ≠ none := fun hl => by
    simp [(wellFormed_iff_legal i).2 hl] at h
  revert hne
  cases i with
  | rdregs addr len =>
    simp only [illegalReason]
    split_ifs <;> simp
  | wrreg addr val =>
    simp only [illegalReason]
    split_ifs <;> simp
  | init tc mode avg => simp [illegalReason]
  | rdcj => simp [illegalReason]
  | rdtc => simp [illegalReason]
  | rdflt => simp [illegalReason]

/-- Settles O13: legality is checked first, and `cfgd` decides among legal commands. -/
theorem admissionByCfgd : Obligations.AdmissionByCfgd := by
  refine ⟨fun tc mode avg => ⟨rfl, rfl⟩, fun i hne hwf => ?_, fun i hwf c => ?_⟩
  · have hi := isInit_eq_false hne
    have hl := (wellFormed_iff_legal i).1 hwf
    exact ⟨refusalReason_eq_none.2 ⟨hwf, by simp [hi]⟩,
      by simp [refusalReason, hl, admissionReason, hi]⟩
  · exact (illegalReason_of_not_wellFormed hwf).imp (refusalReason_of_illegalReason · c)
      (refusalReason_of_illegalReason · c)

/-! ## The transport calls of a frame, whatever their answer -/

/-- The bytes that the `XW` of a frame sends (R76, R77). -/
def Frame.sent : Frame → List Byte
  | .read a _ => [a]
  | .write a v => [a, v]

/-- `TXBUF` loaded for the frame's `XW` (R26). -/
def Frame.load : Frame → State → State
  | .read a _, s => s.setTx0 a
  | .write a v, s => (s.setTx0 a).setTx1 v

/-- The state once the `XW` of a frame has been made. -/
def Frame.called (f : Frame) (s : State) : State := ((f.load s).callXw f.sent).2

/-- Where the answer to the frame's `XW` takes the sequencer (R120). -/
def Frame.answered (f : Frame) : CallResult XRes → State → State
  | .pending, u => u
  | .fail e, u => (u.noteFailure e .addr).setPh .rel
  | .ok r, u =>
    match f with
    | .read _ _ => u.setPh .data
    | .write _ _ => (u.setWres r).setPh .rel

/-- Where the answer to an `XR` takes the sequencer (R120). -/
def readAnswered : CallResult (List Byte) → State → State
  | .pending, u => u
  | .fail e, u => ((u.storeRx []).noteFailure e .data).setPh .rel
  | .ok bytes, u => (u.storeRx bytes).setPh .rel

theorem advanceAddr_eq (f : Frame) (s : State) :
    advanceAddr f s = f.answered (writeAnswer (s.replyAt 0)) (f.called s) := by
  cases f with
  | read a n =>
    have hcall : (s.setTx0 a).callXw [(s.setTx0 a).work.tx0] =
      (writeAnswer (s.replyAt 0), (Frame.read a n).called s) := rfl
    simp only [advanceAddr, hcall]
    cases writeAnswer (s.replyAt 0) <;> rfl
  | write a v =>
    have hcall : ((s.setTx0 a).setTx1 v).callXw
      [((s.setTx0 a).setTx1 v).work.tx0, ((s.setTx0 a).setTx1 v).work.tx1] =
      (writeAnswer (s.replyAt 0), (Frame.write a v).called s) := rfl
    simp only [advanceAddr, hcall]
    cases writeAnswer (s.replyAt 0) <;> rfl

theorem advanceData_eq (s : State) :
    advanceData s =
      readAnswered (s.readAnswer s.work.n (s.replyAt 0)) (s.callXr s.work.n).2 := by
  have hcall : s.callXr s.work.n =
    (s.readAnswer s.work.n (s.replyAt 0), (s.callXr s.work.n).2) := rfl
  rw [advanceData, hcall]
  cases s.readAnswer s.work.n (s.replyAt 0) <;> rfl

/-! ## What a row leaves unchanged, and what it adds to the history -/

section RowFields

variable (f : Frame) (r : CallResult XRes) (rs : CallResult (List Byte)) (i : Instr) (s : State)

@[simp] theorem called_cfgd : (f.called s).cfgd = s.cfgd := by cases f <;> rfl
@[simp] theorem called_cfg : (f.called s).cfg = s.cfg := by cases f <;> rfl
@[simp] theorem called_ph : (f.called s).ph = s.ph := by cases f <;> rfl
@[simp] theorem called_err : (f.called s).work.err = s.work.err := by cases f <;> rfl
@[simp] theorem called_inbox : (f.called s).inbox = s.inbox := by cases f <;> rfl
@[simp] theorem called_far : (f.called s).far = s.far := by cases f <;> rfl
@[simp] theorem called_waiting :
    (f.called s).waiting = (writeAnswer (s.replyAt 0)).isPending := by cases f <;> rfl
@[simp] theorem called_events :
    (f.called s).events = s.events ++ [.xw f.sent (writeAnswer (s.replyAt 0))] := by
  cases f <;> rfl
@[simp] theorem called_chip :
    (f.called s).chip =
      s.onChip (Chip.onWrite f.sent (s.lostByte (writeAnswer (s.replyAt 0)))) := by
  cases f <;> rfl

@[simp] theorem answered_cfgd : (f.answered r s).cfgd = s.cfgd := by
  cases r <;> cases f <;> rfl
@[simp] theorem answered_cfg : (f.answered r s).cfg = s.cfg := by cases r <;> cases f <;> rfl
@[simp] theorem answered_inbox : (f.answered r s).inbox = s.inbox := by
  cases r <;> cases f <;> rfl
@[simp] theorem answered_far : (f.answered r s).far = s.far := by cases r <;> cases f <;> rfl
@[simp] theorem answered_chip : (f.answered r s).chip = s.chip := by
  cases r <;> cases f <;> rfl
@[simp] theorem answered_events : (f.answered r s).events = s.events := by
  cases r <;> cases f <;> rfl

@[simp] theorem readAnswered_cfgd : (readAnswered rs s).cfgd = s.cfgd := by cases rs <;> rfl
@[simp] theorem readAnswered_cfg : (readAnswered rs s).cfg = s.cfg := by cases rs <;> rfl
@[simp] theorem readAnswered_inbox : (readAnswered rs s).inbox = s.inbox := by cases rs <;> rfl
@[simp] theorem readAnswered_far : (readAnswered rs s).far = s.far := by cases rs <;> rfl
@[simp] theorem readAnswered_chip : (readAnswered rs s).chip = s.chip := by cases rs <;> rfl
@[simp] theorem readAnswered_events : (readAnswered rs s).events = s.events := by
  cases rs <;> rfl

@[simp] theorem finishCommand_cs : (finishCommand i s).cs = s.cs := by cases i <;> rfl
@[simp] theorem finishCommand_inbox : (finishCommand i s).inbox = s.inbox := by cases i <;> rfl
@[simp] theorem finishCommand_far : (finishCommand i s).far = s.far := by cases i <;> rfl
@[simp] theorem finishCommand_chip : (finishCommand i s).chip = s.chip := by cases i <;> rfl
@[simp] theorem finishCommand_events : (finishCommand i s).events = s.events := by cases i <;> rfl

/-- A command whose last frame was good answers OK (R33). -/
theorem finishCommand_responses :
    ∃ v, (finishCommand i s).responses = s.responses ++ [.ok v] := by
  cases i <;> exact ⟨_, rfl⟩

@[simp] theorem begin_cfgd : (s.begin i).cfgd = s.cfgd := by cases i <;> rfl
@[simp] theorem begin_cfg : (s.begin i).cfg = s.cfg := by cases i <;> rfl
@[simp] theorem begin_inbox : (s.begin i).inbox = s.inbox := by cases i <;> rfl
@[simp] theorem begin_far : (s.begin i).far = s.far := by cases i <;> rfl
@[simp] theorem begin_chip : (s.begin i).chip = s.chip := by cases i <;> rfl

end RowFields

theorem finishCommand_config {i : Instr} (hi : isInit i = false) (s : State) :
    (finishCommand i s).cfgd = s.cfgd ∧ (finishCommand i s).cfg = s.cfg := by
  cases i with
  | init tc mode avg => cases hi
  | rdregs addr len => exact ⟨rfl, rfl⟩
  | wrreg addr val => exact ⟨rfl, rfl⟩
  | rdcj => exact ⟨rfl, rfl⟩
  | rdtc => exact ⟨rfl, rfl⟩
  | rdflt => exact ⟨rfl, rfl⟩

/-- All that the row of REL can do: after a failure the XFAIL response, else the second frame of
INIT or the good end (R120, R164). -/
theorem advanceRel_cases (i : Instr) (s : State) :
    (s.work.err = true ∧
      ∃ q, advanceRel i s = (s.driveCs .inactive).raiseXfail q) ∨
    (isInit i = true ∧ s.work.seq = 0 ∧ s.work.err = false ∧
      advanceRel i s = ((s.driveCs .inactive).setSeq 1).setPh .sel) ∨
    (¬ (isInit i = true ∧ s.work.seq = 0) ∧ s.work.err = false ∧
      advanceRel i s = finishCommand i (s.driveCs .inactive)) := by
  cases herr : s.work.err with
  | true => exact .inl ⟨rfl, frameIndex i (s.driveCs .inactive), by simp [advanceRel, herr]⟩
  | false =>
    by_cases hc : isInit i = true ∧ s.work.seq = 0
    · exact .inr (.inl ⟨hc.1, hc.2, rfl, by simp [advanceRel, herr, hc]⟩)
    · exact .inr (.inr ⟨hc, rfl, by simp [advanceRel, herr, hc]⟩)

/-- All that a row of R120 can do: nothing, where the block is idle or waits; the line driven
active; a frame's `XW` or `XR` made and answered; or the line released and the command failed, gone
on to its second frame, or ended. -/
theorem advance_cases (i : Instr) (s : State) :
    advance i s = s ∨
    advance i s = (s.driveCs .active).setPh .addr ∨
    (∃ r, advance i s = (frameOf i s.work.seq).answered r ((frameOf i s.work.seq).called s)) ∨
    (∃ r, advance i s = readAnswered r (s.callXr s.work.n).2) ∨
    (∃ q, advance i s = (s.driveCs .inactive).raiseXfail q) ∨
    advance i s = ((s.driveCs .inactive).setSeq 1).setPh .sel ∨
    advance i s = finishCommand i (s.driveCs .inactive) := by
  cases hw : s.waiting with
  | true => exact .inl (advance_waiting i s hw)
  | false =>
    cases hph : s.ph with
    | idle => exact .inl (advance_idle i s hph)
    | sel => exact .inr (.inl (advance_sel i s hw hph))
    | addr => exact .inr (.inr (.inl ⟨_, (advance_addr i s hw hph).trans (advanceAddr_eq _ s)⟩))
    | data =>
      exact .inr (.inr (.inr (.inl ⟨_, (advance_data i s hw hph).trans (advanceData_eq s)⟩)))
    | rel =>
      rw [advance_rel i s hw hph]
      obtain ⟨-, q, he⟩ | ⟨-, -, -, he⟩ | ⟨-, -, he⟩ := advanceRel_cases i s
      · exact .inr (.inr (.inr (.inr (.inl ⟨q, he⟩))))
      · exact .inr (.inr (.inr (.inr (.inr (.inl he)))))
      · exact .inr (.inr (.inr (.inr (.inr (.inr he)))))

/-! ## The rows of the transition table -/

/-- The phase that follows a good `XW` (R120). -/
def Frame.phaseAfterSent : Frame → Phase
  | .read _ _ => .data
  | .write _ _ => .rel

section Rows

variable (i : Instr) {s : State} (hw : s.waiting = false)
include hw

/-- The row of ADDR (R120). -/
theorem row_addr {f : Frame} (hph : s.ph = .addr) (hf : frameOf i s.work.seq = f) :
    ∃ r, (advance i s).events = s.events ++ [.xw f.sent r] ∧
      ((∃ v, r = .ok v) →
        (advance i s).ph = f.phaseAfterSent ∧ (advance i s).work.err = s.work.err) ∧
      ((∃ e, r = .fail e) → (advance i s).ph = .rel ∧ (advance i s).work.err = true) ∧
      (r = .pending → (advance i s).ph = .addr ∧ advance i (advance i s) = advance i s) := by
  rw [advance_addr i s hw hph, hf, advanceAddr_eq]
  refine ⟨writeAnswer (s.replyAt 0), by simp, ?_, ?_, ?_⟩
  · rintro ⟨v, hv⟩
    rw [hv]
    cases f <;> exact ⟨rfl, rfl⟩
  · rintro ⟨e, he⟩
    rw [he]
    exact ⟨rfl, rfl⟩
  · intro hp
    have hwait : (f.called s).waiting = true := by simp [hp, CallResult.isPending]
    rw [hp]
    exact ⟨(called_ph f s).trans hph, advance_waiting i _ hwait⟩

/-- The row of DATA (R120). -/
theorem row_data (hph : s.ph = .data) :
    ∃ r, (advance i s).events = s.events ++ [.xr s.work.n r] ∧
      ((∃ v, r = .ok v) → (advance i s).ph = .rel ∧ (advance i s).work.err = s.work.err) ∧
      ((∃ e, r = .fail e) → (advance i s).ph = .rel ∧ (advance i s).work.err = true) ∧
      (r = .pending → (advance i s).ph = .data ∧ advance i (advance i s) = advance i s) := by
  rw [advance_data i s hw hph, advanceData_eq]
  refine ⟨s.readAnswer s.work.n (s.replyAt 0), by simp, ?_, ?_, ?_⟩
  · rintro ⟨x, hx⟩
    rw [hx]
    exact ⟨rfl, rfl⟩
  · rintro ⟨e, he⟩
    rw [he]
    exact ⟨rfl, rfl⟩
  · intro hp
    have hwait : (s.callXr s.work.n).2.waiting = true := by simp [hp, CallResult.isPending]
    rw [hp]
    exact ⟨hph, advance_waiting i _ hwait⟩

/-- The row of REL (R120). -/
theorem row_rel (hph : s.ph = .rel) :
    (advance i s).events = s.events ++ [.cs .inactive] ∧ (advance i s).cs = .inactive ∧
      (isInit i = true ∧ s.work.seq = 0 ∧ s.work.err = false →
        (advance i s).ph = .sel ∧ (advance i s).work.seq = 1 ∧
          (advance i s).responses = s.responses) ∧
      (¬ (isInit i = true ∧ s.work.seq = 0 ∧ s.work.err = false) →
        (advance i s).ph = .idle ∧ ∃ r, (advance i s).responses = s.responses ++ [r] ∧
          (s.work.err = true → ∃ c, r = .xfail c) ∧ (s.work.err = false → ∃ v, r = .ok v)) := by
  rw [advance_rel i s hw hph]
  obtain ⟨herr, q, he⟩ | ⟨hi, hq, herr, he⟩ | ⟨hc, herr, he⟩ := advanceRel_cases i s
  · rw [he]
    refine ⟨rfl, rfl, fun h => by simp [herr] at h, fun _ => ⟨rfl, _, rfl, fun _ => ⟨_, rfl⟩, ?_⟩⟩
    simp [herr]
  · rw [he]
    exact ⟨rfl, rfl, fun _ => ⟨rfl, rfl, rfl⟩, fun h => absurd ⟨hi, hq, herr⟩ h⟩
  · obtain ⟨v, hv⟩ := finishCommand_responses i (s.driveCs .inactive)
    rw [he]
    refine ⟨by simp, by simp, fun h => absurd ⟨h.1, h.2.1⟩ hc, fun _ => ?_⟩
    exact ⟨finishCommand_ph i _, _, hv, by simp [herr], fun _ => ⟨v, rfl⟩⟩

end Rows

/-- Settles O40, row by row. -/
theorem sequencerRows : Obligations.SequencerRows := by
  intro i s hw
  refine ⟨fun hph => ?_, fun hph a n hf => ?_, fun hph _ _ hf => row_addr i hw hph hf,
    row_data i hw, row_rel i hw⟩
  · rw [advance_sel i s hw hph]
    exact ⟨rfl, rfl, rfl⟩
  · obtain ⟨r, hev, hok, hrest⟩ := row_addr i hw hph hf
    exact ⟨r, hev, fun h => (hok h).1, hrest⟩

/-! ## What every row keeps, every command keeps -/

/-- What the refusal keeps, and the start of an admitted command and each row of R120 keep, holds
after the command. -/
theorem exec_induct {P : State → Prop} {i : Instr} {s t : State} (he : exec i s = .next t)
    (hrefuse : ∀ r, P (s.refuse r)) (hbegin : P (s.begin i))
    (hrow : ∀ u, P u → P (advance i u)) : P t := by
  have htimes : ∀ k u, P u → P (advanceTimes i k u) := by
    intro k
    induction k with
    | zero => exact fun u hu => hu
    | succ k ih => exact fun u hu => ih _ (hrow u hu)
  obtain ⟨-, hx⟩ | ⟨r, -, -, hx⟩ | ⟨-, -, hx⟩ := exec_cases i s <;> rw [hx] at he <;> cases he
  · exact hrefuse r
  · rw [commandBody_eq_advanceTimes]
    exact htimes 6 _ hbegin

/-- No row of a command but INIT writes `cfgd` or `CFG` (R23). -/
theorem advance_config {i : Instr} (hi : isInit i = false) (s : State) :
    (advance i s).cfgd = s.cfgd ∧ (advance i s).cfg = s.cfg := by
  obtain he | he | ⟨r, he⟩ | ⟨r, he⟩ | ⟨q, he⟩ | he | he := advance_cases i s <;> rw [he]
  · exact ⟨rfl, rfl⟩
  · exact ⟨rfl, rfl⟩
  · simp
  · simp
  · exact ⟨rfl, rfl⟩
  · exact ⟨rfl, rfl⟩
  · exact finishCommand_config hi (s.driveCs .inactive)

/-- A refusal, the start of a command that is no INIT, and each of its rows leave `cfgd` and `CFG`
as they are. -/
theorem exec_config {i : Instr} {s t : State} (hi : isInit i = false) (he : exec i s = .next t) :
    t.cfgd = s.cfgd ∧ t.cfg = s.cfg := by
  refine exec_induct (P := fun u => u.cfgd = s.cfgd ∧ u.cfg = s.cfg) he (fun _ => ⟨rfl, rfl⟩)
    ⟨begin_cfgd i s, begin_cfg i s⟩ fun u hu => ?_
  obtain ⟨hcfgd, hcfg⟩ := advance_config hi u
  exact ⟨hcfgd.trans hu.1, hcfg.trans hu.2⟩

/-- Settles O29: no row of another command writes the configuration. -/
theorem onlyInitWritesTheConfiguration : Obligations.OnlyInitWritesTheConfiguration :=
  fun _ _ _ hne he => exec_config (isInit_eq_false hne) he

end Sys2Proof.Machine

/-! PROOFS. The reference chip and the configuration under every command: what a row and a write
frame do to the chip's registers, and when `cfgd`, `CFG` and the match of R105 change (R23, R61,
R62, R102, R105, R191). -/

namespace Sys2Proof.Machine

/-! ## A register that no write names -/

/-- Chip `d` holds in register `k` what `c` does, but for the changes the chip makes on its own
(R62). -/
structure Chip.Keeps (k : Nat) (c d : Chip) : Prop where
  /-- The chip changes none of 0x00 to 0x09 on its own. -/
  low : k ≤ 9 → d.regs.read k = c.regs.read k
  /-- With no change of its own to come it changes nothing, now or later. -/
  still : c.conversions = [] → d.conversions = [] ∧ d.regs.read k = c.regs.read k

theorem Chip.Keeps.refl (k : Nat) (c : Chip) : c.Keeps k c := ⟨fun _ => rfl, fun h => ⟨h, rfl⟩⟩

theorem Chip.Keeps.of_same {k : Nat} {c d : Chip} (hregs : d.regs = c.regs)
    (hconv : d.conversions = c.conversions) : c.Keeps k d :=
  ⟨fun _ => by rw [hregs], fun h => ⟨by rw [hconv, h], by rw [hregs]⟩⟩

theorem Chip.Keeps.trans {k : Nat} {c d e : Chip} (h : c.Keeps k d) (h' : d.Keeps k e) :
    c.Keeps k e where
  low hk := (h'.low hk).trans (h.low hk)
  still hc := by
    obtain ⟨hd, hread⟩ := h.still hc
    obtain ⟨he, hread'⟩ := h'.still hd
    exact ⟨he, hread'.trans hread⟩

/-- Selecting the chip makes its own changes and no other. -/
theorem Chip.keeps_onSelect (k : Nat) (l : Level) (c : Chip) : c.Keeps k (c.onSelect l) := by
  cases l with
  | inactive => exact Chip.Keeps.of_same rfl rfl
  | active =>
    exact ⟨convert_read c k, fun hc => by simp [Chip.onSelect, convert_nil c hc, hc]⟩

/-- A call that does not write register `k` keeps it. -/
theorem Chip.keeps_onWrite {k : Nat} {bytes : List Byte} (lost : Option Byte) (c : Chip)
    (h : ∀ a v, bytes = [a, v] → registerNumber a ≠ k) : c.Keeps k (c.onWrite bytes lost) := by
  unfold Chip.onWrite
  split
  · split <;> exact Chip.Keeps.of_same rfl rfl
  · rename_i a v
    have hput : ∀ b, (c.regs.put (registerNumber a) b).read k = c.regs.read k :=
      fun b => Memory.read_put_other _ _ (Ne.symm (h a v rfl))
    split
    · split
      · exact ⟨fun _ => hput _, fun hc => ⟨hc, hput _⟩⟩
      · exact Chip.Keeps.of_same rfl rfl
    · exact Chip.Keeps.of_same rfl rfl
  · exact Chip.Keeps.of_same rfl rfl

theorem Chip.keeps_onRead (k n : Nat) (c : Chip) : c.Keeps k (c.onRead n) := by
  unfold Chip.onRead
  split <;> exact Chip.Keeps.of_same rfl rfl

theorem onChip_keeps {k : Nat} {f : Chip → Chip} (s : State) (h : s.chip.Keeps k (f s.chip)) :
    s.chip.Keeps k (s.onChip f) := by
  unfold State.onChip
  cases s.far with
  | oracle => exact Chip.Keeps.refl k _
  | refChip => exact h

theorem onChip_oracle (f : Chip → Chip) {s : State} (h : s.far = .oracle) :
    s.onChip f = s.chip := by
  simp [State.onChip, h]

/-- All that a row can do to the chip: nothing, or one of the calls of its frame (R61). -/
theorem advance_chip_cases (i : Instr) (s : State) :
    (advance i s).chip = s.chip ∨
    (∃ l, (advance i s).chip = s.onChip (Chip.onSelect l)) ∨
    (∃ lost, (advance i s).chip =
      s.onChip (Chip.onWrite (frameOf i s.work.seq).sent lost)) ∨
    (∃ n, (advance i s).chip = s.onChip (Chip.onRead n)) := by
  obtain he | he | ⟨r, he⟩ | ⟨r, he⟩ | ⟨q, he⟩ | he | he := advance_cases i s <;> rw [he]
  · exact .inl rfl
  · exact .inr (.inl ⟨.active, rfl⟩)
  · exact .inr (.inr (.inl ⟨_, (answered_chip ..).trans (called_chip ..)⟩))
  · exact .inr (.inr (.inr ⟨s.work.n, readAnswered_chip ..⟩))
  · exact .inr (.inl ⟨.inactive, rfl⟩)
  · exact .inr (.inl ⟨.inactive, rfl⟩)
  · exact .inr (.inl ⟨.inactive, finishCommand_chip ..⟩)

/-- A row keeps every register that no write frame of its command names. -/
theorem advance_keeps {i : Instr} {k : Nat}
    (hk : ∀ q a v, frameOf i q = .write a v → registerNumber a ≠ k) (s : State) :
    s.chip.Keeps k (advance i s).chip := by
  obtain he | ⟨l, he⟩ | ⟨lost, he⟩ | ⟨n, he⟩ := advance_chip_cases i s
  · rw [he]; exact Chip.Keeps.refl k _
  · rw [he]; exact onChip_keeps s (Chip.keeps_onSelect k l _)
  · rw [he]
    refine onChip_keeps s (Chip.keeps_onWrite lost _ fun a v hb => ?_)
    cases hf : frameOf i s.work.seq with
    | read a' n => simp [hf, Frame.sent] at hb
    | write a' v' =>
      obtain ⟨rfl, rfl⟩ : a' = a ∧ v' = v := by simpa [hf, Frame.sent] using hb
      exact hk _ _ _ hf
  · rw [he]; exact onChip_keeps s (Chip.keeps_onRead k n _)

/-- No row touches the command port nor what stands behind the transport (R36, R60). -/
theorem advance_ports (i : Instr) (s : State) :
    (advance i s).inbox = s.inbox ∧ (advance i s).far = s.far := by
  obtain he | he | ⟨r, he⟩ | ⟨r, he⟩ | ⟨q, he⟩ | he | he := advance_cases i s <;> rw [he]
  · exact ⟨rfl, rfl⟩
  · exact ⟨rfl, rfl⟩
  · simp
  · simp
  · exact ⟨rfl, rfl⟩
  · exact ⟨rfl, rfl⟩
  · simp

/-- With the oracle behind the transport no chip is tracked (R60). -/
theorem advance_chip_of_oracle (i : Instr) {s : State} (hf : s.far = .oracle) :
    (advance i s).chip = s.chip := by
  obtain he | ⟨l, he⟩ | ⟨lost, he⟩ | ⟨n, he⟩ := advance_chip_cases i s
  · exact he
  all_goals rw [he, onChip_oracle _ hf]

/-- Every command keeps the registers that none of its write frames names (R56, R102). -/
theorem exec_keeps {i : Instr} {k : Nat} {s t : State}
    (hk : ∀ q a v, frameOf i q = .write a v → registerNumber a ≠ k) (he : exec i s = .next t) :
    s.chip.Keeps k t.chip :=
  exec_induct (P := fun u => s.chip.Keeps k u.chip) he (fun _ => Chip.Keeps.refl k _)
    (by rw [begin_chip]; exact Chip.Keeps.refl k _) fun u hu => hu.trans (advance_keeps hk u)

theorem exec_ports {i : Instr} {s t : State} (he : exec i s = .next t) :
    t.inbox = s.inbox ∧ t.far = s.far := by
  refine exec_induct (P := fun u => u.inbox = s.inbox ∧ u.far = s.far) he (fun _ => ⟨rfl, rfl⟩)
    ⟨begin_inbox i s, begin_far i s⟩ fun u hu => ?_
  obtain ⟨hinbox, hfar⟩ := advance_ports i u
  exact ⟨hinbox.trans hu.1, hfar.trans hu.2⟩

theorem exec_chip_of_oracle {i : Instr} {s t : State} (hf : s.far = .oracle)
    (he : exec i s = .next t) : t.chip = s.chip := by
  have h : t.chip = s.chip ∧ t.far = .oracle := by
    refine exec_induct (P := fun u => u.chip = s.chip ∧ u.far = .oracle) he (fun _ => ⟨rfl, hf⟩)
      ⟨begin_chip i s, (begin_far i s).trans hf⟩ fun u hu => ?_
    obtain ⟨-, hfar⟩ := advance_ports i u
    exact ⟨(advance_chip_of_oracle i hu.2).trans hu.1, hfar.trans hu.2⟩
  exact h.1

/-- Settles O31: each row keeps a register that no write frame names, and the ports. -/
theorem onlyNamedChipRegistersChange : Obligations.OnlyNamedChipRegistersChange := by
  intro i s t he
  obtain ⟨hinbox, hfar⟩ := exec_ports he
  refine ⟨fun k hk => ?_, fun hf => exec_chip_of_oracle hf he, hinbox, hfar⟩
  have hkeeps := exec_keeps hk he
  exact ⟨hkeeps.low, fun hc => (hkeeps.still hc).2⟩

/-! ## A good write frame -/

/-- The state after a write frame whose `XW` was answered OK with `r` (R112). -/
def written (a v : Byte) (r : XRes) (s : State) : State :=
  (((writeReady a v s).callXw [a, v]).2.setWres r).release

section Written

variable (a v : Byte) (r : XRes) (s : State)

@[simp] theorem written_cfgd : (written a v r s).cfgd = s.cfgd := rfl
@[simp] theorem written_cfg : (written a v r s).cfg = s.cfg := rfl
@[simp] theorem written_far : (written a v r s).far = s.far := rfl
@[simp] theorem written_responses : (written a v r s).responses = s.responses := rfl

/-- The frame's one call takes one reply. -/
@[simp] theorem written_replyAt (k : Nat) : (written a v r s).replyAt k = s.replyAt (k + 1) :=
  callXw_replyAt (writeReady a v s) [a, v] k

variable {a v r s} {b : List Byte}

theorem wframe_eq_written (h : s.replyAt 0 = .ok r b) :
    wframe a v s = (.ok, written a v r s) := wframe_ok a v s r b h

theorem written_events (h : s.replyAt 0 = .ok r b) :
    (written a v r s).events =
      s.events ++ [.cs .active, .xw [a, v] (.ok r), .cs .inactive] := by
  simp [written, release_eq, writeReady, h, writeAnswer]

/-- A write address names a writable register (R42, R44). -/
theorem registerNumber_le_of_inWaddr : ∀ {a : Byte}, inWaddr a = true →
    registerNumber a ≤ lastWritable := by decide

/-- Under the reference chip a good write frame puts its value in the register that its address
names, after the chip's own changes (R61, R62). -/
theorem written_regs (ha : inWaddr a = true) (hf : s.far = .refChip)
    (h : s.replyAt 0 = .ok r b) :
    (written a v r s).chip.regs = s.chip.convert.regs.put (registerNumber a) v := by
  have hready : (writeReady a v s).chip = { s.chip.convert with sel := true, mode := .none } :=
    onChip_ref (Chip.onSelect .active) (s.setPh .sel) hf
  have hcalled : ((writeReady a v s).callXw [a, v]).2.chip.regs =
      s.chip.convert.regs.put (registerNumber a) v := by
    rw [callXw_chip, onChip_ref _ (writeReady a v s) hf, hready]
    simp [Chip.onWrite, isWrite_of_waddr a ha, registerNumber_le_of_inWaddr ha, h, writeAnswer,
      State.lostByte]
  have hrelease : (written a v r s).chip =
      ((writeReady a v s).callXw [a, v]).2.chip.onSelect .inactive :=
    onChip_ref (Chip.onSelect .inactive)
      ((((writeReady a v s).callXw [a, v]).2.setWres r).setPh .rel) hf
  rw [hrelease]
  exact hcalled

end Written

/-! ## INIT and WRREG, all writes good -/

theorem commandBody_wrreg_ok {addr val : Byte} {s : State} {r : XRes} {b : List Byte}
    (h : s.replyAt 0 = .ok r b) :
    commandBody (.wrreg addr val) s = (written addr val r s).finishWres := by
  show endCommand (.wrreg addr val) 0 (wframe addr val s) = _
  rw [wframe_eq_written h]
  rfl

section Init

variable (tc : ThermoType) (mode : ConvMode) (avg : Averaging)

/-- The state after both frames of INIT, each answered OK (R100). -/
def initWritten (r₀ r₁ : XRes) (s : State) : State :=
  written addrWriteCr1 (cr1Value avg tc) r₁
    ((written addrWriteCr0 (Config.cr0Code mode) r₀ (s.setSeq 0)).setSeq 1)

variable {tc mode avg} {s : State} {r₀ r₁ : XRes} {b₀ b₁ : List Byte}

theorem commandBody_init_ok (h₀ : s.replyAt 0 = .ok r₀ b₀) (h₁ : s.replyAt 1 = .ok r₁ b₁) :
    commandBody (.init tc mode avg) s =
      (initWritten tc mode avg r₀ r₁ s).finishInit { tc := tc, mode := mode, avg := avg } := by
  rw [commandBody_init, wframe_eq_written (b := b₀) (by simpa using h₀)]
  simp only [initAfterFirst]
  rw [wframe_eq_written (b := b₁) (by simpa using h₁)]
  rfl

/-- INIT's trace when both writes are good (R100, R102). -/
theorem initWritten_events (h₀ : s.replyAt 0 = .ok r₀ b₀) (h₁ : s.replyAt 1 = .ok r₁ b₁) :
    (initWritten tc mode avg r₀ r₁ s).events = s.events ++
      [.cs .active, .xw [0x80, Config.cr0Code mode] (.ok r₀), .cs .inactive,
       .cs .active, .xw [0x81, cr1Value avg tc] (.ok r₁), .cs .inactive] := by
  rw [initWritten, written_events (b := b₁) (by simpa using h₁), setSeq_events,
    written_events (b := b₀) (by simpa using h₀)]
  simp [addrWriteCr0, addrWriteCr1]

/-- Under the reference chip the two good writes leave the two composed bytes in CR0 and CR1 (R100,
R102). -/
theorem initWritten_read (hf : s.far = .refChip) (h₀ : s.replyAt 0 = .ok r₀ b₀)
    (h₁ : s.replyAt 1 = .ok r₁ b₁) :
    (initWritten tc mode avg r₀ r₁ s).chip.regs.read 0 = some (Config.cr0Code mode) ∧
    (initWritten tc mode avg r₀ r₁ s).chip.regs.read 1 = some (cr1Value avg tc) := by
  have hregs₀ : (written addrWriteCr0 (Config.cr0Code mode) r₀ (s.setSeq 0)).chip.regs =
      s.chip.convert.regs.put 0 (Config.cr0Code mode) :=
    written_regs (s := s.setSeq 0) (by decide) hf h₀
  have hregs₁ : (initWritten tc mode avg r₀ r₁ s).chip.regs =
      (written addrWriteCr0 (Config.cr0Code mode) r₀ (s.setSeq 0)).chip.convert.regs.put 1
        (cr1Value avg tc) :=
    written_regs (b := b₁) (by decide) hf (by simpa using h₁)
  rw [hregs₁]
  refine ⟨?_, Memory.read_put_same _ _ _⟩
  rw [Memory.read_put_other _ _ (by decide), convert_read _ 0 (by decide), hregs₀]
  exact Memory.read_put_same _ _ _

/-- INIT sets `cfgd` only when both its writes were answered OK (R102, R103). -/
theorem replies_ok_of_init_configures (hc : s.cfgd = false)
    (h : (commandBody (.init tc mode avg) s).cfgd = true) :
    ∃ r₀ b₀ r₁ b₁, s.replyAt 0 = .ok r₀ b₀ ∧ s.replyAt 1 = .ok r₁ b₁ := by
  rw [commandBody_init] at h
  cases h₀ : s.replyAt 0 with
  | never =>
    rw [wframe_hang _ _ _ (by simpa using h₀)] at h
    simp [initAfterFirst, writeReady, hc] at h
  | fail e =>
    rw [wframe_fail _ _ _ e (by simpa using h₀)] at h
    simp [initAfterFirst, raiseXfail_eq, release_eq, writeReady, hc] at h
  | ok r₀ b₀ =>
    rw [wframe_eq_written (b := b₀) (by simpa using h₀)] at h
    simp only [initAfterFirst] at h
    cases h₁ : s.replyAt 1 with
    | never =>
      rw [wframe_hang _ _ _ (by simpa using h₁)] at h
      simp [endCommand, writeReady, hc] at h
    | fail e =>
      rw [wframe_fail _ _ _ e (by simpa using h₁)] at h
      simp [endCommand, raiseXfail_eq, release_eq, writeReady, hc] at h
    | ok r₁ b₁ => exact ⟨r₀, b₀, r₁, b₁, rfl, rfl⟩

end Init

/-! ## When the configuration changes -/

/-- Once `cfgd` is 1 no command writes it or `CFG`: INIT is refused, and no other writes them (R22,
R23). -/
theorem exec_config_of_configured {i : Instr} {s t : State} (hc : s.cfgd = true)
    (he : exec i s = .next t) : t.cfgd = true ∧ t.cfg = s.cfg := by
  cases hi : isInit i with
  | false =>
    obtain ⟨hcfgd, hcfg⟩ := exec_config hi he
    exact ⟨hcfgd.trans hc, hcfg⟩
  | true =>
    obtain ⟨-, hx⟩ | ⟨r, -, -, hx⟩ | ⟨-, hr, -⟩ := exec_cases i s
    · rw [hx] at he; cases he
    · rw [hx] at he; cases he; exact ⟨hc, rfl⟩
    · simp [refusalReason_eq_none, hc, hi] at hr

/-- Settles O30: only INIT writes `cfgd`, only when both its writes are good, and it is refused
afterwards. -/
theorem configurationIsWrittenOnce : Obligations.ConfigurationIsWrittenOnce := by
  refine ⟨fun i s t he hc ht => ?_, fun s t hinv hstep hc => ?_⟩
  · cases hi : isInit i with
    | false =>
      obtain ⟨hcfgd, -⟩ := exec_config hi he
      simp [hcfgd, hc] at ht
    | true =>
      obtain ⟨tc, mode, avg, rfl⟩ := eq_init_of_isInit hi
      obtain ⟨-, hx⟩ | ⟨r, -, -, hx⟩ | ⟨-, -, hx⟩ := exec_cases (.init tc mode avg) s <;>
        rw [hx] at he <;> cases he
      · simp [hc] at ht
      · obtain ⟨r₀, b₀, r₁, b₁, h₀, h₁⟩ := replies_ok_of_init_configures
          (s := s.accept (.init tc mode avg)) hc ht
        rw [commandBody_init_ok h₀ h₁]
        exact ⟨tc, mode, avg, r₀, r₁, rfl, rfl, initWritten_events h₀ h₁⟩
  · obtain ⟨-, rfl⟩ | ⟨w, rest, r, -, -, -, rfl⟩ | ⟨w, rest, i, -, -, -, he⟩ |
      ⟨i, hbusy, -, hcur, rfl⟩ := step_cases hstep
    · exact ⟨hc, rfl⟩
    · exact ⟨hc, rfl⟩
    · exact exec_config_of_configured (s := { s with inbox := rest }) hc he
    · obtain ⟨j, hj, -, hadmitted, -⟩ := hinv.busy hbusy
      obtain rfl : i = j := Option.some.inj (hcur.symm.trans hj)
      obtain ⟨hcfgd, hcfg⟩ := advance_config (by simpa [hc] using hadmitted) s
      exact ⟨hcfgd.trans hc, hcfg⟩

/-! ## The match of CR0 and CR1 with the configuration -/

/-- Of the write addresses only 0x80 names register 0 and only 0x81 register 1 (R41, R44). -/
theorem eq_of_registerNumber_low : ∀ {a : Byte}, inWaddr a = true →
    (registerNumber a = 0 → a = 0x80) ∧ (registerNumber a = 1 → a = 0x81) := by decide

/-- An admitted command that is no INIT and no WRREG to 0x80 or 0x81 names neither CR0 nor CR1 in a
write frame. -/
theorem write_frame_spares_cr {i : Instr} (hi : isInit i = false) (hwf : i.wellFormed = true)
    (hne : ∀ v, i ≠ .wrreg 0x80 v ∧ i ≠ .wrreg 0x81 v) {q : Fin 2} {a v : Byte}
    (hf : frameOf i q = .write a v) : registerNumber a ≠ 0 ∧ registerNumber a ≠ 1 := by
  obtain ⟨h0, h1⟩ := eq_of_registerNumber_low (frame_write_wf i q a v hwf hf)
  cases i with
  | wrreg addr val =>
    obtain ⟨rfl, rfl⟩ : addr = a ∧ val = v := by simpa [frameOf] using hf
    obtain ⟨hne0, hne1⟩ := hne val
    exact ⟨fun h => hne0 (by rw [h0 h]), fun h => hne1 (by rw [h1 h])⟩
  | init tc mode avg => cases hi
  | rdregs addr len => simp [frameOf] at hf
  | rdcj => simp [frameOf] at hf
  | rdtc => simp [frameOf] at hf
  | rdflt => simp [frameOf] at hf

/-- Every command but a WRREG to 0x80 or 0x81 keeps the match (R105, R191). -/
theorem exec_keeps_match {i : Instr} {s t : State} (h : s.configMatches)
    (hne : ∀ v, i ≠ .wrreg 0x80 v ∧ i ≠ .wrreg 0x81 v) (he : exec i s = .next t) :
    t.configMatches := by
  obtain ⟨hc, hf, hcr0, hcr1⟩ := h
  obtain ⟨hcfgd, hcfg⟩ := exec_config_of_configured hc he
  obtain ⟨-, hfar⟩ := exec_ports he
  have hread : t.chip.regs.read 0 = s.chip.regs.read 0 ∧
      t.chip.regs.read 1 = s.chip.regs.read 1 := by
    obtain ⟨-, hx⟩ | ⟨r, -, -, hx⟩ | ⟨-, hr, -⟩ := exec_cases i s
    · rw [hx] at he; cases he
    · rw [hx] at he; cases he; exact ⟨rfl, rfl⟩
    · obtain ⟨hwf, hadmitted⟩ := refusalReason_eq_none.1 hr
      have hi : isInit i = false := by simpa [hc] using hadmitted
      have hspare := @write_frame_spares_cr i hi hwf hne
      exact ⟨(exec_keeps (fun _ _ _ hfr => (hspare hfr).1) he).low (by decide),
        (exec_keeps (fun _ _ _ hfr => (hspare hfr).2) he).low (by decide)⟩
  refine ⟨hcfgd, hfar.trans hf, ?_, ?_⟩
  · rw [hcfg, ← hcr0]; exact hread.1
  · rw [hcfg, ← hcr1]; exact hread.2

/-- Settles O32: INIT writes both registers, the frame rule keeps them, and a WRREG to 0x80 writes
CR0 while `CFG` stays. -/
theorem configurationMatchesUnlessWrregRewritesIt :
    Obligations.ConfigurationMatchesUnlessWrregRewritesIt := by
  refine ⟨fun tc mode avg s r₀ r₁ b₀ b₁ hidle hc hf h₀ h₁ => ?_,
    fun i s t h hne he => exec_keeps_match h hne he, fun s v r₀ b₀ h hidle h₀ hv => ?_⟩
  · have hr : refusalReason (.init tc mode avg) s.cfgd = none := by rw [hc]; rfl
    refine ⟨_, exec_admitted hidle hr, ?_⟩
    rw [commandBody_init_ok (b₀ := b₀) (b₁ := b₁) (by simpa using h₀) (by simpa using h₁)]
    obtain ⟨hcr0, hcr1⟩ := initWritten_read (tc := tc) (mode := mode) (avg := avg)
      (s := s.accept (.init tc mode avg)) hf h₀ h₁
    exact ⟨rfl, hf, hcr0, hcr1⟩
  · obtain ⟨hc, hf, -, -⟩ := h
    have hr : refusalReason (.wrreg 0x80 v) s.cfgd = none := by rw [hc]; rfl
    refine ⟨_, exec_admitted hidle hr, ?_⟩
    rw [commandBody_wrreg_ok (b := b₀) (by simpa using h₀)]
    refine ⟨fun hm => hv ?_, rfl, hc⟩
    obtain ⟨-, -, hcr0, -⟩ := hm
    have hregs := written_regs (a := 0x80) (v := v) (s := s.accept (.wrreg 0x80 v)) (by decide)
      hf h₀
    have hread : (written 0x80 v r₀ (s.accept (.wrreg 0x80 v))).chip.regs.read 0 = some v := by
      rw [hregs]
      exact Memory.read_put_same _ 0 v
    exact Option.some.inj (hread.symm.trans hcr0)

end Sys2Proof.Machine

/-! PROOFS. The answer to a command: it is one response or a hang (R33, R118), and it depends on
nothing that earlier commands left in the working registers, `CFG` or the history (R20, R32, R50).
-/

namespace Sys2Proof.Machine

/-! ## One response per command -/

/-- The responses `rs` were followed by one more and the block is idle, or a call hangs and none
followed (R33, R118). -/
def State.answeredOnce (rs : List Response) (t : State) : Prop :=
  (t.ph = .idle ∧ ∃ r, t.responses = rs ++ [r]) ∨ (t.waiting = true ∧ t.responses = rs)

/-- A frame delivers no response, and one that hangs leaves its call awaited (R111, R112, R118). -/
def FrameSilent (rs : List Response) (x : FrameEnd × State) : Prop :=
  x.2.responses = rs ∧ (x.1 = .hang → x.2.waiting = true)

theorem wframe_silent (a v : Byte) (s : State) : FrameSilent s.responses (wframe a v s) := by
  cases h : s.replyAt 0 with
  | never =>
    rw [wframe_hang a v s h]
    exact ⟨rfl, fun _ => by simp [h, writeAnswer, CallResult.isPending]⟩
  | fail e => rw [wframe_fail a v s e h]; exact ⟨rfl, nofun⟩
  | ok r b => rw [wframe_ok a v s r b h]; exact ⟨rfl, nofun⟩

theorem rframe_silent (a : Byte) (n : Nat) (s : State) :
    FrameSilent s.responses (rframe a n s) := by
  cases h : s.replyAt 0 with
  | never =>
    rw [rframe_addr_hang a n s h]
    exact ⟨rfl, fun _ => by simp [h, writeAnswer, CallResult.isPending]⟩
  | fail e => rw [rframe_addr_fail a n s e h]; exact ⟨rfl, nofun⟩
  | ok r b =>
    cases h' : s.replyAt 1 with
    | never =>
      rw [rframe_data_hang a n s r b h h']
      exact ⟨rfl, fun _ => by simp [h', State.readAnswer, CallResult.isPending]⟩
    | fail e => rw [rframe_data_fail a n s r b e h h']; exact ⟨rfl, nofun⟩
    | ok r' l => rw [rframe_ok a n s r r' b l h h']; exact ⟨rfl, nofun⟩

theorem runFrame_silent (f : Frame) (s : State) : FrameSilent s.responses (runFrame f s) := by
  cases f with
  | read a n => exact rframe_silent a n (s.setN n)
  | write a v => exact wframe_silent a v s

/-- The end of a command answers once, unless its last frame hangs. -/
theorem endCommand_answersOnce (i : Instr) (q : Fin 2) {rs : List Response}
    {x : FrameEnd × State} (h : FrameSilent rs x) : (endCommand i q x).answeredOnce rs := by
  obtain ⟨hrs, hhang⟩ := h
  match x with
  | (.hang, t) => exact .inr ⟨hhang rfl, hrs⟩
  | (.fail, t) => exact .inl ⟨rfl, _, congrArg (· ++ [_]) hrs⟩
  | (.ok, t) =>
    obtain ⟨v, hv⟩ := finishCommand_responses i t
    exact .inl ⟨finishCommand_ph i t, .ok v, hv.trans (congrArg (· ++ [_]) hrs)⟩

theorem initAfterFirst_answersOnce (tc : ThermoType) (mode : ConvMode) (avg : Averaging)
    {rs : List Response} {x : FrameEnd × State} (h : FrameSilent rs x) :
    (initAfterFirst tc mode avg x).answeredOnce rs := by
  match x with
  | (.hang, t) => exact endCommand_answersOnce (.init tc mode avg) 0 h
  | (.fail, t) => exact endCommand_answersOnce (.init tc mode avg) 0 h
  | (.ok, t) =>
    obtain ⟨rfl, -⟩ : t.responses = rs ∧ _ := h
    exact endCommand_answersOnce (.init tc mode avg) 1 (wframe_silent _ _ (t.setSeq 1))

/-- An admitted command answers once or hangs. -/
theorem commandBody_answersOnce (i : Instr) (s : State) :
    (commandBody i s).answeredOnce s.responses := by
  cases hi : isInit i with
  | false =>
    rw [commandBody_of_not_init hi]
    exact endCommand_answersOnce i 0 (runFrame_silent _ s)
  | true =>
    obtain ⟨tc, mode, avg, rfl⟩ := eq_init_of_isInit hi
    rw [commandBody_init]
    exact initAfterFirst_answersOnce tc mode avg (wframe_silent _ _ (s.setSeq 0))

/-- Settles O48: a refusal is one response, and so is the end of a command whose frames return. -/
theorem oneResponsePerCommand : Obligations.OneResponsePerCommand := by
  intro i s t he
  obtain ⟨-, hx⟩ | ⟨r, hidle, -, hx⟩ | ⟨-, -, hx⟩ := exec_cases i s <;> rw [hx] at he <;> cases he
  · exact .inl ⟨hidle, .refused r, rfl⟩
  · exact commandBody_answersOnce i (s.accept i)

/-! ## No command reads what earlier ones left -/

/-- `t` is `u` with the history of `b` before its own; of the working registers and `CFG` nothing
is said. -/
structure State.Continues (b t u : State) : Prop where
  events : t.events = b.events ++ u.events
  responses : t.responses = b.responses ++ u.responses
  cs : t.cs = u.cs
  ph : t.ph = u.ph
  cfgd : t.cfgd = u.cfgd
  waiting : t.waiting = u.waiting
  far : t.far = u.far
  chip : t.chip = u.chip
  replies : t.replies = u.replies
  tick : t.tick = u.tick

namespace State.Continues

variable {b t u : State} (h : b.Continues t u)
include h

theorem replyAt (k : Nat) : t.replyAt k = u.replyAt k :=
  replyAt_congr h.replies h.far h.tick k

theorem onChip (f : Chip → Chip) : t.onChip f = u.onChip f := by
  simp only [State.onChip, h.far, h.chip]

theorem servedBytes (listed : List Byte) (n : Nat) :
    t.servedBytes listed n = u.servedBytes listed n := by
  have hbyte : t.servedByte listed = u.servedByte listed := by
    funext k
    simp only [State.servedByte, State.chipByte, h.far, h.chip, h.tick]
  simp only [State.servedBytes, hbyte]

/-- The working registers may change on either side. -/
theorem withWork (w w' : Work) : b.Continues { t with work := w } { u with work := w' } :=
  ⟨h.events, h.responses, h.cs, h.ph, h.cfgd, h.waiting, h.far, h.chip, h.replies, h.tick⟩

theorem setPh (p : Phase) : b.Continues (t.setPh p) (u.setPh p) :=
  ⟨h.events, h.responses, h.cs, rfl, h.cfgd, h.waiting, h.far, h.chip, h.replies, h.tick⟩

theorem setSeq (q : Fin 2) : b.Continues (t.setSeq q) (u.setSeq q) := h.withWork _ _

theorem accept (i : Instr) : b.Continues (t.accept i) (u.accept i) :=
  ⟨h.events, h.responses, h.cs, h.ph, h.cfgd, rfl, h.far, h.chip, h.replies, h.tick⟩

theorem storeRx (bytes : List Byte) : b.Continues (t.storeRx bytes) (u.storeRx bytes) :=
  ⟨h.events, h.responses, h.cs, h.ph, h.cfgd, h.waiting, h.far, h.chip, h.replies,
    congrArg (· + 1) h.tick⟩

theorem driveCs (l : Level) : b.Continues (t.driveCs l) (u.driveCs l) :=
  ⟨by simp [h.events], h.responses, rfl, h.ph, h.cfgd, h.waiting, h.far, h.onChip _, h.replies,
    h.tick⟩

theorem release : b.Continues t.release u.release := (h.setPh .rel).driveCs .inactive

theorem callXw (bytes : List Byte) : b.Continues (t.callXw bytes).2 (u.callXw bytes).2 where
  events := by simp [h.events, h.replyAt 0]
  responses := h.responses
  cs := h.cs
  ph := h.ph
  cfgd := h.cfgd
  waiting := by simp [h.replyAt 0]
  far := h.far
  chip := by
    have hlost : t.lostByte = u.lostByte := by
      funext c
      cases c <;> simp only [State.lostByte, h.tick]
    simp only [callXw_chip, h.replyAt 0, hlost, h.onChip]
  replies := congrArg List.tail h.replies
  tick := congrArg (· + 1) h.tick

theorem callXr (n : Nat) : b.Continues (t.callXr n).2 (u.callXr n).2 := by
  have hread : t.readAnswer n (t.replyAt 0) = u.readAnswer n (u.replyAt 0) := by
    rw [h.replyAt 0]
    cases u.replyAt 0 <;> simp only [State.readAnswer, h.servedBytes]
  exact
    { events := by simp [h.events, hread]
      responses := h.responses
      cs := h.cs
      ph := h.ph
      cfgd := h.cfgd
      waiting := by simp [hread]
      far := h.far
      chip := h.onChip _
      replies := congrArg List.tail h.replies
      tick := congrArg (· + 1) h.tick }

theorem respond (r : Response) : b.Continues (t.respond r) (u.respond r) :=
  ⟨h.events, by simp [h.responses], h.cs, rfl, h.cfgd, h.waiting, h.far, h.chip, h.replies,
    congrArg (· + 1) h.tick⟩

theorem refuse (r : Reason) : b.Continues (t.refuse r) (u.refuse r) :=
  ⟨h.events, by simp [h.responses], h.cs, h.ph, h.cfgd, h.waiting, h.far, h.chip, h.replies,
    h.tick⟩

theorem readReady (a : Byte) : b.Continues (readReady a t) (readReady a u) :=
  (((h.setPh .sel).driveCs .active).setPh .addr).withWork _ _

theorem writeReady (a v : Byte) : b.Continues (writeReady a v t) (writeReady a v u) :=
  (((h.setPh .sel).driveCs .active).setPh .addr).withWork _ _

theorem readSent (a : Byte) : b.Continues (readSent a t) (readSent a u) :=
  ((h.readReady a).callXw [a]).setPh .data

end State.Continues

/-- Of the working registers, the end of a command reads those that its last frame has written: the
failure after a failure, and else the bytes received or the transport's result (R20). -/
def Frame.AgreesOn (f : Frame) : FrameEnd → Work → Work → Prop
  | .hang, _, _ => True
  | .fail, w, w' => w.fph = w'.fph ∧ w.xerr = w'.xerr
  | .ok, w, w' =>
    match f with
    | .read _ _ => w.rx = w'.rx ∧ w.n = w'.n
    | .write _ _ => w.wres = w'.wres

/-- Two runs of the frame `f` end alike, the first with the history of `b` before its own. -/
def Frame.EndsAlike (f : Frame) (b : State) (x y : FrameEnd × State) : Prop :=
  x.1 = y.1 ∧ b.Continues x.2 y.2 ∧ f.AgreesOn x.1 x.2.work y.2.work

theorem wframe_endsAlike (a v : Byte) {b t u : State} (h : b.Continues t u) :
    (Frame.write a v).EndsAlike b (wframe a v t) (wframe a v u) := by
  have hcalled := (h.writeReady a v).callXw [a, v]
  cases hr : u.replyAt 0 with
  | never =>
    rw [wframe_hang a v u hr, wframe_hang a v t ((h.replyAt 0).trans hr)]
    exact ⟨rfl, hcalled, trivial⟩
  | fail e =>
    rw [wframe_fail a v u e hr, wframe_fail a v t e ((h.replyAt 0).trans hr)]
    exact ⟨rfl, (hcalled.withWork _ _).release, rfl, rfl⟩
  | ok r l =>
    rw [wframe_ok a v u r l hr, wframe_ok a v t r l ((h.replyAt 0).trans hr)]
    exact ⟨rfl, (hcalled.withWork _ _).release, rfl⟩

theorem rframe_endsAlike (a : Byte) (n : Nat) {b t u : State} (h : b.Continues t u)
    (hn : t.work.n = u.work.n) :
    (Frame.read a n).EndsAlike b (rframe a n t) (rframe a n u) := by
  cases hr : u.replyAt 0 with
  | never =>
    rw [rframe_addr_hang a n u hr, rframe_addr_hang a n t ((h.replyAt 0).trans hr)]
    exact ⟨rfl, (h.readReady a).callXw [a], trivial⟩
  | fail e =>
    rw [rframe_addr_fail a n u e hr, rframe_addr_fail a n t e ((h.replyAt 0).trans hr)]
    exact ⟨rfl, (((h.readReady a).callXw [a]).withWork _ _).release, rfl, rfl⟩
  | ok r l =>
    have hr' := (h.replyAt 0).trans hr
    have hcalled := (h.readSent a).callXr n
    cases hx : u.replyAt 1 with
    | never =>
      rw [rframe_data_hang a n u r l hr hx, rframe_data_hang a n t r l hr' ((h.replyAt 1).trans hx)]
      exact ⟨rfl, hcalled, trivial⟩
    | fail e =>
      rw [rframe_data_fail a n u r l e hr hx,
        rframe_data_fail a n t r l e hr' ((h.replyAt 1).trans hx)]
      exact ⟨rfl, ((hcalled.storeRx []).withWork _ _).release, rfl, rfl⟩
    | ok r₁ listed =>
      rw [rframe_ok a n u r r₁ l listed hr hx,
        rframe_ok a n t r r₁ l listed hr' ((h.replyAt 1).trans hx),
        (h.readSent a).servedBytes listed n]
      exact ⟨rfl, (hcalled.storeRx _).release, congrArg (rxHolding · _) hcalled.tick, hn⟩

theorem runFrame_endsAlike (f : Frame) {b t u : State} (h : b.Continues t u) :
    f.EndsAlike b (runFrame f t) (runFrame f u) := by
  cases f with
  | read a n => exact rframe_endsAlike a n (h.withWork _ _) rfl
  | write a v => exact wframe_endsAlike a v h

/-- A good end reads no more than the last frame has written. -/
theorem finishCommand_continues {i : Instr} {q : Fin 2} {b t u : State} (h : b.Continues t u)
    (hw : (frameOf i q).AgreesOn .ok t.work u.work) :
    b.Continues (finishCommand i t) (finishCommand i u) := by
  have hbyte : ∀ {k}, t.work.rx = u.work.rx → t.rxByte k = u.rxByte k := fun hrx => by
    simp only [State.rxByte, hrx, h.tick]
  have hdata : t.work.rx = u.work.rx ∧ t.work.n = u.work.n →
      b.Continues t.finishData u.finishData := fun ⟨hrx, hn⟩ => by
    rw [finishData_eq, finishData_eq, hrx, hn]
    exact h.respond _
  cases i with
  | init tc mode avg =>
    have hset : b.Continues { t with cfg := ⟨tc, mode, avg⟩, cfgd := true }
        { u with cfg := ⟨tc, mode, avg⟩, cfgd := true } :=
      ⟨h.events, h.responses, h.cs, h.ph, rfl, h.waiting, h.far, h.chip, h.replies, h.tick⟩
    exact hset.respond _
  | rdregs addr len => exact hdata hw
  | wrreg addr val =>
    have hres : t.work.wres = u.work.wres := hw
    show b.Continues t.finishWres u.finishWres
    rw [finishWres_eq, finishWres_eq, hres]
    exact h.respond _
  | rdcj =>
    obtain ⟨hrx, -⟩ := hw
    show b.Continues t.finishCj u.finishCj
    rw [State.finishCj, State.finishCj, hbyte hrx, hbyte hrx]
    exact (h.withWork _ _).respond _
  | rdtc =>
    obtain ⟨hrx, -⟩ := hw
    show b.Continues t.finishTc u.finishTc
    rw [State.finishTc, State.finishTc, hbyte hrx, hbyte hrx, hbyte hrx]
    exact (h.withWork _ _).respond _
  | rdflt => exact hdata hw

theorem endCommand_continues {i : Instr} {q : Fin 2} (q' : Fin 2) {b : State}
    {x y : FrameEnd × State} (h : (frameOf i q).EndsAlike b x y) :
    b.Continues (endCommand i q' x) (endCommand i q' y) := by
  obtain ⟨e, t⟩ := x
  obtain ⟨e', u⟩ := y
  obtain ⟨rfl, hc, hw⟩ : e = e' ∧ b.Continues t u ∧ (frameOf i q).AgreesOn e t.work u.work := h
  cases e with
  | hang => exact hc
  | fail =>
    obtain ⟨hfph, hxerr⟩ := hw
    show b.Continues (t.raiseXfail q') (u.raiseXfail q')
    rw [raiseXfail_eq, raiseXfail_eq, hfph, hxerr]
    exact hc.respond _
  | ok => exact finishCommand_continues hc hw

theorem initAfterFirst_continues (tc : ThermoType) (mode : ConvMode) (avg : Averaging) {b : State}
    {x y : FrameEnd × State} (h : (frameOf (.init tc mode avg) 0).EndsAlike b x y) :
    b.Continues (initAfterFirst tc mode avg x) (initAfterFirst tc mode avg y) := by
  obtain ⟨e, t⟩ := x
  obtain ⟨e', u⟩ := y
  obtain rfl : e = e' := h.1
  cases e with
  | hang => exact endCommand_continues 0 h
  | fail => exact endCommand_continues 0 h
  | ok =>
    have hc : b.Continues t u := h.2.1
    exact endCommand_continues (q := 1) 1 (wframe_endsAlike _ _ (hc.setSeq 1))

theorem commandBody_continues (i : Instr) {b t u : State} (h : b.Continues t u) :
    b.Continues (commandBody i t) (commandBody i u) := by
  cases hi : isInit i with
  | false =>
    rw [commandBody_of_not_init hi, commandBody_of_not_init hi]
    exact endCommand_continues 0 (runFrame_endsAlike _ h)
  | true =>
    obtain ⟨tc, mode, avg, rfl⟩ := eq_init_of_isInit hi
    rw [commandBody_init, commandBody_init]
    exact initAfterFirst_continues tc mode avg (wframe_endsAlike _ _ (h.setSeq 0))

/-- A command does in `t` what it does in `u`, and adds it to the history of `b`. -/
theorem exec_continues {i : Instr} {b t u t' u' : State} (h : b.Continues t u)
    (ht : exec i t = .next t') (hu : exec i u = .next u') : b.Continues t' u' := by
  obtain ⟨-, hx⟩ | ⟨r, hidle, hr, hx⟩ | ⟨hidle, hr, hx⟩ := exec_cases i t <;>
    rw [hx] at ht <;> cases ht
  · rw [exec_refused (h.ph.symm.trans hidle) (h.cfgd ▸ hr)] at hu
    cases hu
    exact h.refuse r
  · rw [exec_admitted (h.ph.symm.trans hidle) (h.cfgd ▸ hr)] at hu
    cases hu
    exact commandBody_continues i (h.accept i)

/-- The state with an empty history. -/
def State.withoutHistory (s : State) : State := { s with events := [], responses := [] }

/-- The state with other working registers, another `CFG` and another history. -/
def State.stale (w : Work) (c : Cfg) (ev : List Event) (rs : List Response) (s : State) : State :=
  { s with work := w, cfg := c, events := ev, responses := rs }

theorem stale_continues (w : Work) (c : Cfg) (ev : List Event) (rs : List Response) (s : State) :
    (s.stale w c ev rs).Continues (s.stale w c ev rs) s.withoutHistory :=
  ⟨(List.append_nil ev).symm, (List.append_nil rs).symm, rfl, rfl, rfl, rfl, rfl, rfl, rfl, rfl⟩

/-- Settles O46: both runs do what the run from an empty history does. -/
theorem noCommandReadsStaleData : Obligations.NoCommandReadsStaleData := by
  intro i s t w c ev rs he
  have hidle : s.ph = .idle := by
    obtain ⟨-, hx⟩ | ⟨-, hidle, -⟩ | ⟨hidle, -⟩ := exec_cases i s
    · rw [hx] at he; cases he
    · exact hidle
    · exact hidle
  obtain ⟨u, hu⟩ := exec_next_of_idle i (s := s.withoutHistory) hidle
  obtain ⟨t', ht'⟩ := exec_next_of_idle i (s := s.stale w c ev rs) hidle
  have h := exec_continues (stale_continues s.work s.cfg s.events s.responses s) he hu
  have h' := exec_continues (stale_continues w c ev rs s) ht' hu
  exact ⟨t', u.events, u.responses, ht', h.events, h'.events, h.responses, h'.responses,
    h'.cs.trans h.cs.symm, h'.ph.trans h.ph.symm, h'.cfgd.trans h.cfgd.symm,
    h'.chip.trans h.chip.symm, h'.replies.trans h.replies.symm⟩

end Sys2Proof.Machine

/-! PROOFS. The command port of an idle block (R24, R36, R186), and the values after a reset (R34,
R181, R182, R185). -/

namespace Sys2Proof.Machine

/-- Settles O9. -/
theorem stepRunsTheOfferedCommand : Obligations.StepRunsTheOfferedCommand :=
  fun _ _ _ _ hstop href hidle hin hd => step_idle_of_decode_ok hstop href hidle hin hd

/-- A word of the opcode table decodes as the command word on the port (R71). -/
theorem decode_of_decodeTableWord {nbits w : Nat} {i : Instr}
    (h : decodeTableWord nbits w = some i) : decode (BitVec.ofNat 19 (w % 2 ^ nbits)) = .ok i := by
  unfold decodeTableWord at h
  split at h
  · cases hd : decode (BitVec.ofNat 19 (w % 2 ^ nbits)) with
    | ok j => simpa [hd] using h
    | error r => simp [hd] at h
  · cases h

/-- A word offered to an idle block changes its command port alone (R36). -/
theorem withFetchWord_of_idle {s : State} (hidle : s.ph = .idle) (nbits w : Nat) :
    s.withFetchWord nbits w =
      { s with inbox := BitVec.ofNat 19 (w % 2 ^ nbits) :: s.inbox } := by
  simp [State.withFetchWord, hidle]

/-- Settles O10: the word offered is the one the block takes. -/
theorem offeredTableWordRunsNext : Obligations.OfferedTableWordRunsNext := by
  intro s nbits w i hstop href hidle hd
  rw [withFetchWord_of_idle hidle]
  exact step_idle_of_decode_ok (s := { s with inbox := BitVec.ofNat 19 (w % 2 ^ nbits) :: s.inbox })
    hstop href hidle rfl (decode_of_decodeTableWord hd)

/-- Settles O49. -/
theorem resetValues : Obligations.ResetValues :=
  ⟨rfl, rfl, rfl, rfl, rfl, step_idle_of_nothing_offered rfl rfl rfl rfl⟩

theorem hostReset_busy {s : State} (h : s.ph ≠ .idle) :
    s.hostReset = .refused .resetDuringFrame := by
  simp [State.hostReset, h]

/-- Settles O50: between commands every clause is a field of the state after reset. -/
theorem hostResetValues : Obligations.HostResetValues := by
  refine ⟨fun s hidle => ?_, fun s => hostReset_busy⟩
  rw [State.hostReset, if_pos hidle]
  exact ⟨_, rfl, rfl, rfl, hidle, rfl, rfl, rfl, Memory.wf_ofFn _, rfl, rfl, rfl⟩

end Sys2Proof.Machine

/-! PROOFS. The register map (R41, R42, R44, R45), and the addresses that a disciplined history has
sent (R76, R77). -/

namespace Sys2Proof.Machine

/-! ## The sixteen registers -/

/-- The registers in the order of R42. -/
def mapRegisters : List RegName :=
  [.CR0, .CR1, .FMASK, .CJHFT, .CJLFT, .LTHFT_H, .LTHFT_L, .LTLFT_H, .LTLFT_L, .CJOFF,
   .CJT_H, .CJT_L, .LT_B2, .LT_B1, .LT_B0, .FLT]

theorem mem_mapRegisters (r : RegName) : r ∈ mapRegisters := by cases r <;> decide

theorem readAddress_injective {r r' : RegName} (h : r.readAddress = r'.readAddress) : r = r' :=
  List.inj_on_of_nodup_map (f := RegName.readAddress) (by decide : (mapRegisters.map _).Nodup)
    (mem_mapRegisters r) (mem_mapRegisters r') h

/-- The read addresses are 0x00 to 0x0F, one register at each (R42, R44). -/
theorem inRaddr_iff {a : Byte} : inRaddr a = true ↔ ∃ r : RegName, r.readAddress = a := by
  have hlist : inRaddr a = true ↔ ∃ r ∈ mapRegisters, r.readAddress = a := by
    revert a
    decide
  simpa [mem_mapRegisters] using hlist

/-- The write addresses are 0x80 to 0x89, one register at each (R44, R45). -/
theorem inWaddr_iff {a : Byte} : inWaddr a = true ↔ ∃ r : RegName, r.writeAddress = some a := by
  have hlist : inWaddr a = true ↔ ∃ r ∈ mapRegisters, r.writeAddress = some a := by
    revert a
    decide
  simpa [mem_mapRegisters] using hlist

/-- Bits 6:0 of a read address are the address (R41). -/
theorem registerNumber_of_inRaddr : ∀ {a : Byte}, inRaddr a = true →
    registerNumber a = a.toNat := by decide

/-- The write bit does not change which register an address names (R41). -/
theorem registerNumber_or_writeFlag (a : Byte) :
    registerNumber (a ||| writeFlag) = registerNumber a := by
  revert a
  decide

theorem writeAddress_eq_some {r : RegName} {a : Byte} (h : r.writeAddress = some a) :
    a = r.readAddress ||| writeFlag := by
  unfold RegName.writeAddress at h
  split at h
  · exact (Option.some.inj h).symm
  · cases h

/-- Settles O6: the table of R42, and the two forms of its addresses. -/
theorem registerMapAddresses : Obligations.RegisterMapAddresses := by
  refine ⟨rfl, rfl, rfl, rfl, rfl, rfl, rfl, rfl, rfl, rfl, rfl, rfl, rfl, rfl, rfl, rfl,
    fun a => inRaddr_iff, fun r r' => readAddress_injective, fun a => inWaddr_iff,
    fun r a h => ?_, isWrite_of_waddr,
    fun a ha => ⟨isRead_of_raddr a ha, registerNumber_of_inRaddr ha⟩⟩
  obtain rfl := writeAddress_eq_some h
  refine ⟨rfl, ?_⟩
  rw [registerNumber_or_writeFlag]
  exact registerNumber_of_inRaddr (inRaddr_iff.2 ⟨r, rfl⟩)

/-! ## The events of a disciplined history -/

/-- A history that breaks the discipline is not mended by what follows. -/
@[simp] theorem busAfter_none (es : List Event) : busAfter none es = none := by
  induction es with
  | nil => rfl
  | cons e es ih => exact ih

theorem busAfter_cons (p : BusPos) (e : Event) (es : List Event) :
    busAfter (some p) (e :: es) = busAfter (p.next e) es := rfl

/-- Every event of a disciplined history was allowed where it was made. -/
theorem exists_next_of_mem {es : List Event} {p q : BusPos} (h : busAfter (some p) es = some q)
    {e : Event} (he : e ∈ es) : ∃ p₁ p₂ : BusPos, p₁.next e = some p₂ := by
  induction es generalizing p with
  | nil => cases he
  | cons d es ih =>
    rw [busAfter_cons] at h
    cases hd : p.next d with
    | none => simp [hd] at h
    | some p' =>
      rw [hd] at h
      obtain rfl | he := List.mem_cons.1 he
      · exact ⟨p, p', hd⟩
      · exact ih h he

/-- The discipline allows an `XW` of a read address alone, or of a write address and one value (R76,
R77). -/
theorem mapped_of_next_xw {p q : BusPos} {bytes : List Byte} {r : CallResult XRes}
    (h : p.next (.xw bytes r) = some q) :
    (∃ a, bytes = [a] ∧ inRaddr a = true) ∨ (∃ a v, bytes = [a, v] ∧ inWaddr a = true) := by
  cases p with
  | selected =>
    match bytes with
    | [a] =>
      cases ha : inRaddr a with
      | true => exact .inl ⟨a, rfl, ha⟩
      | false => simp [BusPos.next, ha] at h
    | [a, v] =>
      cases ha : inWaddr a with
      | true => exact .inr ⟨a, v, rfl, ha⟩
      | false => simp [BusPos.next, ha] at h
    | [] => simp [BusPos.next] at h
    | _ :: _ :: _ :: _ => simp [BusPos.next] at h
  | outside => simp [BusPos.next] at h
  | addressed => simp [BusPos.next] at h
  | closing => simp [BusPos.next] at h
  | hung => simp [BusPos.next] at h

/-- Settles O45: the invariant's history is disciplined, and the discipline allows no other
`XW`. -/
theorem onlyMappedAddressesAreSent : Obligations.OnlyMappedAddressesAreSent := by
  intro s hinv bytes r he
  obtain ⟨p, q, hnext⟩ := exists_next_of_mem hinv.bus he
  exact mapped_of_next_xw hnext

end Sys2Proof.Machine

/-! PROOFS. The chip's registers under the reference chip: what WRREG and INIT write, and what a
register read returns (R50, R51, R61, R100, R115, R165). -/

namespace Sys2Proof.Machine

/-! ## What a write frame leaves in the chip -/

/-- What the register addressed by a write holds after it: the value sent, or a free byte where the
call was not answered OK (R61, R165). -/
def State.storedByte (s : State) (v : Byte) : Byte :=
  (s.lostByte (writeAnswer (s.replyAt 0))).getD v

theorem storedByte_of_ok {s : State} {r : XRes} {b : List Byte} (v : Byte)
    (h : s.replyAt 0 = .ok r b) : s.storedByte v = v := by
  simp [State.storedByte, h, writeAnswer, State.lostByte]

/-- Releasing the chip changes no register (R61). -/
theorem release_regs (s : State) : s.release.chip.regs = s.chip.regs := by
  rw [release_eq, driveCs_chip, State.onChip]
  cases (s.setPh .rel).far <;> rfl

/-- Under the reference chip the `XW` of a write frame writes the register its address names, after
the chip's own changes (R61, R62). -/
theorem writeCalled_regs {a : Byte} {s : State} (v : Byte) (ha : inWaddr a = true)
    (hf : s.far = .refChip) :
    ((writeReady a v s).callXw [a, v]).2.chip.regs =
      s.chip.convert.regs.put (registerNumber a) (s.storedByte v) := by
  have hready : (writeReady a v s).chip = { s.chip.convert with sel := true, mode := .none } :=
    onChip_ref (Chip.onSelect .active) (s.setPh .sel) hf
  have hlost : (writeReady a v s).lostByte = s.lostByte := by
    funext c
    cases c <;> rfl
  rw [callXw_chip, onChip_ref _ (writeReady a v s) hf, hready, hlost]
  simp [Chip.onWrite, isWrite_of_waddr a ha, registerNumber_le_of_inWaddr ha, State.storedByte]

/-- However its call is answered, a write frame leaves what the call left in the chip. -/
theorem wframe_regs {a : Byte} {s : State} (v : Byte) (ha : inWaddr a = true)
    (hf : s.far = .refChip) :
    (wframe a v s).2.chip.regs =
      s.chip.convert.regs.put (registerNumber a) (s.storedByte v) := by
  rw [← writeCalled_regs v ha hf]
  cases h : s.replyAt 0 with
  | never => rw [wframe_hang a v s h]
  | fail e => rw [wframe_fail a v s e h]; exact release_regs _
  | ok r b => rw [wframe_ok a v s r b h]; exact release_regs _

/-- The end of a command makes no call. -/
@[simp] theorem endCommand_chip (i : Instr) (q : Fin 2) (x : FrameEnd × State) :
    (endCommand i q x).chip = x.2.chip := by
  match x with
  | (.hang, t) => rfl
  | (.fail, t) => rfl
  | (.ok, t) => exact finishCommand_chip i t

/-! ## WRREG -/

/-- The range of a WRREG address, as R44 writes it. -/
theorem inWaddr_of_bounds {a : Byte} (hlo : 0x80 ≤ a.toNat) (hhi : a.toNat ≤ 0x89) :
    inWaddr a = true := by
  simp [inWaddr, hlo, hhi]

/-- A configured idle block runs a WRREG to a write address (R166). -/
theorem exec_wrreg {addr : Byte} {s : State} (val : Byte) (hidle : s.ph = .idle)
    (hc : s.cfgd = true) (ha : inWaddr addr = true) :
    exec (.wrreg addr val) s =
      .next (commandBody (.wrreg addr val) (s.accept (.wrreg addr val))) :=
  exec_admitted hidle (refusalReason_eq_none.2 ⟨ha, hc⟩)

/-- WRREG leaves the stored byte in the register that its address names (R115, R165). -/
theorem commandBody_wrreg_read {addr : Byte} {s : State} (val : Byte) (ha : inWaddr addr = true)
    (hf : s.far = .refChip) :
    (commandBody (.wrreg addr val) s).chip.regs.read (registerNumber addr) =
      some (s.storedByte val) := by
  have hregs : (commandBody (.wrreg addr val) s).chip.regs =
      s.chip.convert.regs.put (registerNumber addr) (s.storedByte val) := by
    rw [commandBody_of_not_init rfl, endCommand_chip]
    exact wframe_regs val ha hf
  rw [hregs]
  exact Memory.read_put_same _ _ _

/-- WRREG keeps every register but the one that its address names (R86). -/
theorem exec_wrreg_keeps {addr val : Byte} {k : Nat} {s t : State} (hk : k ≠ registerNumber addr)
    (he : exec (.wrreg addr val) s = .next t) : s.chip.Keeps k t.chip := by
  refine exec_keeps (fun q a v hfr => ?_) he
  obtain ⟨rfl, -⟩ : addr = a ∧ val = v := by simpa [frameOf] using hfr
  exact hk.symm

/-- Settles O33: the call of the one write frame stores a byte, and nothing else is written. -/
theorem wrregWritesOneChipRegister : Obligations.WrregWritesOneChipRegister := by
  intro addr val s hidle hc hf hlo hhi
  have ha := inWaddr_of_bounds hlo hhi
  have he := exec_wrreg val hidle hc ha
  have hread := commandBody_wrreg_read (s := s.accept (.wrreg addr val)) val ha hf
  refine ⟨_, he, fun r b h => ?_, fun _ => ⟨_, hread⟩, fun k hk => (exec_wrreg_keeps hk he).low,
    fun hconv k hk => ((exec_wrreg_keeps hk he).still hconv).2⟩
  rw [hread, storedByte_of_ok val (by simpa using h)]

/-! ## INIT -/

/-- INIT keeps every register from 2 on: its two write frames name CR0 and CR1 (R43, R100). -/
theorem exec_init_keeps {tc : ThermoType} {mode : ConvMode} {avg : Averaging} {k : Nat}
    {s t : State} (hk : 2 ≤ k) (he : exec (.init tc mode avg) s = .next t) :
    s.chip.Keeps k t.chip := by
  refine exec_keeps (fun q a v hfr => ?_) he
  have hcr : registerNumber a < 2 := by
    simp only [frameOf] at hfr
    split at hfr <;> cases hfr <;> decide
  omega

/-- Settles O34: the two good frames write CR0 and CR1, and the frame rule keeps the rest. -/
theorem initWritesCr0AndCr1Only : Obligations.InitWritesCr0AndCr1Only := by
  intro tc mode avg s r₀ r₁ b₀ b₁ hidle hc hf h₀ h₁
  have he := exec_admitted (i := .init tc mode avg) hidle (by rw [hc]; rfl)
  rw [commandBody_init_ok (s := s.accept (.init tc mode avg)) h₀ h₁] at he
  obtain ⟨hcr0, hcr1⟩ := initWritten_read (tc := tc) (mode := mode) (avg := avg)
    (s := s.accept (.init tc mode avg)) hf h₀ h₁
  exact ⟨_, he, hcr0, hcr1, fun k hk => (exec_init_keeps hk he).low,
    fun hconv k hk => ((exec_init_keeps hk he).still hconv).2⟩

/-! ## Where no reply is listed -/

/-- No command makes the transport list a reply (R60). -/
theorem exec_unlisted {i : Instr} {s t : State} (hs : s.replies = [])
    (he : exec i s = .next t) : t.replies = [] := by
  refine exec_induct (P := fun u => u.replies = []) he (fun _ => hs) ?_ fun u hu => ?_
  · cases i <;> exact hs
  · obtain he | he | ⟨r, he⟩ | ⟨r, he⟩ | ⟨q, he⟩ | he | he := advance_cases i u <;> rw [he]
    · exact hu
    · exact hu
    · cases r <;> cases frameOf i u.work.seq <;> exact congrArg List.tail hu
    · cases r <;> exact congrArg List.tail hu
    · exact hu
    · exact hu
    · cases i <;> exact hu

/-- A configured idle block in front of the reference chip, no reply being listed: the reference
chip itself answers the next command (R61). -/
structure State.OnRefChip (s : State) : Prop where
  idle : s.ph = .idle
  configured : s.cfgd = true
  far : s.far = .refChip
  unlisted : s.replies = []

namespace State.OnRefChip

variable {s t : State} (h : s.OnRefChip)
include h

/-- The reference chip never fails and never hangs (R61). -/
theorem replyAt (k : Nat) : s.replyAt k = .ok ⟨Config.free (s.tick + k) 0⟩ [] := by
  simp [State.replyAt, h.unlisted, h.far, Far.reply]

/-- A command that ends leaves the next one to the reference chip too. -/
theorem of_exec {i : Instr} (he : exec i s = .next t) (hidle : t.ph = .idle) : t.OnRefChip := by
  obtain ⟨hc, -⟩ := exec_config_of_configured h.configured he
  obtain ⟨-, hfar⟩ := exec_ports he
  exact ⟨hidle, hc, hfar.trans h.far, exec_unlisted h.unlisted he⟩

/-- WRREG ends, and the register that its address names holds the value (R61, R115). -/
theorem exec_wrreg {addr : Byte} (val : Byte) (ha : inWaddr addr = true) :
    ∃ t, exec (.wrreg addr val) s = .next t ∧ t.OnRefChip ∧
      t.chip.regs.read (registerNumber addr) = some val := by
  have he := Machine.exec_wrreg val h.idle h.configured ha
  have hread := commandBody_wrreg_read (s := s.accept (.wrreg addr val)) val ha h.far
  refine ⟨_, he, h.of_exec he ?_, hread.trans (congrArg some (storedByte_of_ok val (h.replyAt 0)))⟩
  rw [commandBody_wrreg_ok (s := s.accept (.wrreg addr val)) (h.replyAt 0)]
  rfl

/-- RDREGS ends and returns what the chip's registers hold, after the chip's own changes; nothing is
said of bytes from beyond 0x0F (R51, R61, R114). -/
theorem exec_rdregs {addr len : Byte} (ha : addr.toNat ≤ 0x0F) (hlo : 1 ≤ len.toNat)
    (hhi : len.toNat ≤ Config.maxLen) :
    ∃ t bytes, exec (.rdregs addr len) s = .next t ∧ t.OnRefChip ∧
      t.responses = s.responses ++ [.ok (.data bytes)] ∧ bytes.length = len.toNat ∧
      ∀ k, k < len.toNat → addr.toNat + k ≤ 0x0F → ∀ b,
        s.chip.convert.regs.read (addr.toNat + k) = some b → bytes[k]? = some b := by
  have hr : refusalReason (.rdregs addr len) s.cfgd = none :=
    refusalReason_eq_none.2 ⟨by simp [Instr.wellFormed, ha, hlo, hhi], h.configured⟩
  obtain ⟨t, bytes, he, ⟨hlen, -, hregs⟩, hrx, hn, -, hresp, -⟩ := read_body_ok (.rdregs addr len)
    addr len.toNat State.finishData s _ _ _ _ rfl h.idle hr (h.replyAt 0) (h.replyAt 1)
    (by simp [inRaddr, ha])
  refine ⟨_, bytes, he, h.of_exec he rfl, ?_, hlen,
    fun k hk => hregs h.far k hk (Nat.zero_le k)⟩
  rw [finishData_eq, respond_responses, hresp, hrx, hn, ← hlen, take_rxHolding]

end State.OnRefChip

/-! ## Reading back -/

/-- Without the write bit a write address is the read address of the register that it names (R41,
R44). -/
theorem clear_writeFlag : ∀ {a : Byte}, inWaddr a = true →
    (a &&& 0x7F).toNat = registerNumber a := by
  decide

/-- Settles O35: the read frame serves the register, which the chip does not change on its own. -/
theorem writtenRegisterReadsBack : Obligations.WrittenRegisterReadsBack := by
  intro addr val s hidle hc hf hunlisted hlo hhi
  have ha := inWaddr_of_bounds hlo hhi
  have hnum := clear_writeFlag ha
  have hle : registerNumber addr ≤ 9 := registerNumber_le_of_inWaddr ha
  obtain ⟨t, het, ht, hread⟩ :=
    (State.OnRefChip.mk hidle hc hf hunlisted).exec_wrreg val ha
  obtain ⟨u, bytes, heu, -, hresp, hlen, hbytes⟩ :=
    ht.exec_rdregs (addr := addr &&& 0x7F) (len := 1) (by omega) (by decide)
      (le_trans (by decide) three_le_maxLen)
  have hval : bytes[0]? = some val := hbytes 0 (by decide) (by omega) val (by
    rw [Nat.add_zero, hnum, convert_read t.chip _ hle, hread])
  have hsingle : bytes = [val] := by
    obtain ⟨b, rfl⟩ := List.length_eq_one_iff.1 hlen
    simpa using hval
  exact ⟨t, u, het, heu, hsingle ▸ hresp⟩

/-- RDREGS writes no register (R56, R86). -/
theorem exec_rdregs_keeps {addr len : Byte} (k : Nat) {s t : State}
    (he : exec (.rdregs addr len) s = .next t) : s.chip.Keeps k t.chip :=
  exec_keeps (fun _ _ _ hfr => by simp [frameOf] at hfr) he

/-- Settles O36: both reads serve the registers, and the first one changes none. -/
theorem repeatedReadsAgree : Obligations.RepeatedReadsAgree := by
  intro addr len s hidle hc hf hunlisted hconv hlo hhi ha hwf
  obtain ⟨t, bytes, het, ht, hresp, hlen, hbytes⟩ :=
    (State.OnRefChip.mk hidle hc hf hunlisted).exec_rdregs ha hlo hhi
  obtain ⟨u, bytes', heu, -, hresp', hlen', hbytes'⟩ := ht.exec_rdregs ha hlo hhi
  refine ⟨t, u, bytes, bytes', het, heu, hresp, hresp', hlen, hlen', fun k hk hreg => ?_⟩
  obtain ⟨v, hv⟩ := s.chip.regs.read_isSome hwf (k := addr.toNat + k) (by simp [nRegs]; omega)
  obtain ⟨hconv', hread⟩ := (exec_rdregs_keeps (addr.toNat + k) het).still hconv
  refine ⟨v, hbytes k hk hreg v ?_, hbytes' k hk hreg v ?_, hv⟩
  · rw [convert_nil s.chip hconv, hv]
  · rw [convert_nil t.chip hconv', hread, hv]

end Sys2Proof.Machine

/-! PROOFS. The command word (R71 to R75): decoding undoes encoding, encoding undoes decoding, and
the verdict on a word is read off its three fields (R90, R91, R168). -/

namespace Sys2Proof.Machine

/-! ## Two nibbles -/

theorem upperNibble_append (x y : BitVec 4) : (x ++ y : Byte).extractLsb' 4 4 = x :=
  BitVec.extractLsb'_append_eq_left

theorem lowerNibble_append (x y : BitVec 4) : (x ++ y : Byte).extractLsb' 0 4 = y :=
  BitVec.extractLsb'_append_eq_right

theorem nibbles_append (b : Byte) : (b.extractLsb' 4 4 ++ b.extractLsb' 0 4 : Byte) = b :=
  (BitVec.extractLsb'_append_extractLsb'_eq_extractLsb' rfl).trans BitVec.extractLsb'_eq_self

/-- A byte whose bits 7:1 are 0 is its bit 0. -/
theorem append_lowBit_of_reserved_eq_zero {a : Byte} (h : a.extractLsb' 1 7 = 0) :
    ((0 : BitVec 7) ++ a.extractLsb' 0 1 : Byte) = a := by
  rw [← h]
  exact (BitVec.extractLsb'_append_extractLsb'_eq_extractLsb' rfl).trans BitVec.extractLsb'_eq_self

/-! ## The decoder, one equation per row of the opcode table -/

section Rows

variable {w : CommandWord}

theorem decode_op1 (h : (opField w).toNat = 1) : decode w = decodeInit (aField w) (bField w) := by
  simp only [decode, h]

theorem decode_op2 (h : (opField w).toNat = 2) :
    decode w = if (aField w).toNat ≤ 0x0F then .ok (.rdregs (aField w) (bField w))
      else .error .badAddress := by
  simp only [decode, h]

theorem decode_op3 (h : (opField w).toNat = 3) :
    decode w = if 0x80 ≤ (aField w).toNat ∧ (aField w).toNat ≤ 0x89 then
      .ok (.wrreg (aField w) (bField w)) else .error .badAddress := by
  simp only [decode, h]

theorem decode_op4 (h : (opField w).toNat = 4) :
    decode w = decodeBare (aField w) (bField w) .rdcj := by
  simp only [decode, h]

theorem decode_op5 (h : (opField w).toNat = 5) :
    decode w = decodeBare (aField w) (bField w) .rdtc := by
  simp only [decode, h]

theorem decode_op6 (h : (opField w).toNat = 6) :
    decode w = decodeBare (aField w) (bField w) .rdflt := by
  simp only [decode, h]

theorem decode_reservedOp (h : (opField w).toNat = 0 ∨ (opField w).toNat = 7) :
    decode w = .error .badOp := by
  obtain h | h := h <;> simp only [decode, h]

end Rows

/-! ## Decoding the word of a command -/

@[simp] theorem opField_encode (i : Instr) : opField (encode i) = opcode i :=
  opField_joinFields _ _ _

@[simp] theorem aField_encode (i : Instr) : aField (encode i) = encodeA i :=
  aField_joinFields _ _ _

@[simp] theorem bField_encode (i : Instr) : bField (encode i) = encodeB i :=
  bField_joinFields _ _ _

/-- The INIT row takes back the bit of the mode and the two nibbles of the selectors. -/
theorem decodeInit_encode (tc : ThermoType) (mode : ConvMode) (avg : Averaging) :
    decodeInit (encodeA (.init tc mode avg)) (encodeB (.init tc mode avg)) =
      .ok (.init tc mode avg) := by
  have hreserved : (encodeA (.init tc mode avg)).extractLsb' 1 7 = 0 :=
    BitVec.extractLsb'_append_eq_left
  have hmode : (encodeA (.init tc mode avg)).extractLsb' 0 1 = mode.selector :=
    BitVec.extractLsb'_append_eq_right
  have havg : (encodeB (.init tc mode avg)).extractLsb' 4 4 = avg.selector :=
    upperNibble_append _ _
  have htc : (encodeB (.init tc mode avg)).extractLsb' 0 4 = tc.selector :=
    lowerNibble_append _ _
  simp [decodeInit, hreserved, hmode, havg, htc, ThermoType.ofSelector_selector,
    ConvMode.ofSelector_selector, Averaging.ofSelector_selector]

/-- Settles O2: each row of the decoder takes back the operands that the encoder joined. -/
theorem decodeOfEncode : Obligations.DecodeOfEncode := by
  intro i hwf
  cases i with
  | init tc mode avg =>
    rw [decode_op1 (by rw [opField_encode]; rfl), aField_encode, bField_encode]
    exact decodeInit_encode tc mode avg
  | rdregs addr len =>
    have haddr : addr.toNat ≤ 0x0F := by
      simp only [Instr.wellFormed, Bool.and_eq_true, decide_eq_true_eq] at hwf
      exact hwf.1
    rw [decode_op2 (by rw [opField_encode]; rfl), aField_encode, bField_encode]
    exact if_pos haddr
  | wrreg addr val =>
    have haddr : 0x80 ≤ addr.toNat ∧ addr.toNat ≤ 0x89 := by
      simpa only [Instr.wellFormed, Bool.and_eq_true, decide_eq_true_eq] using hwf
    rw [decode_op3 (by rw [opField_encode]; rfl), aField_encode, bField_encode]
    exact if_pos haddr
  | rdcj => rw [decode_op4 (by rw [opField_encode]; rfl), aField_encode, bField_encode]; rfl
  | rdtc => rw [decode_op5 (by rw [opField_encode]; rfl), aField_encode, bField_encode]; rfl
  | rdflt => rw [decode_op6 (by rw [opField_encode]; rfl), aField_encode, bField_encode]; rfl

/-! ## A word that decodes -/

/-- The INIT row accepts only the operand fields of the command it answers. -/
theorem decodeInit_eq_ok {a b : Byte} {i : Instr} (h : decodeInit a b = .ok i) :
    opcode i = 1 ∧ encodeA i = a ∧ encodeB i = b := by
  unfold decodeInit at h
  split at h
  · cases h
  · rename_i hreserved
    split at h
    · rename_i avg tc havg htc
      cases h
      refine ⟨rfl, ?_, ?_⟩
      · rw [encodeA, ConvMode.selector_ofSelector]
        exact append_lowBit_of_reserved_eq_zero (not_not.1 hreserved)
      · rw [encodeB, Averaging.selector_of_ofSelector havg, ThermoType.selector_of_ofSelector htc]
        exact nibbles_append b
    · cases h

theorem decodeBare_eq_ok {a b : Byte} {i j : Instr} (h : decodeBare a b i = .ok j) :
    j = i ∧ a = 0 ∧ b = 0 := by
  unfold decodeBare at h
  split at h
  · rename_i hzero
    cases h
    exact ⟨rfl, hzero⟩
  · cases h

/-- A word that decodes has the three fields of its command: no bit is ignored. -/
theorem fields_of_decode_eq_ok {w : CommandWord} {i : Instr} (h : decode w = .ok i) :
    opcode i = opField w ∧ encodeA i = aField w ∧ encodeB i = bField w := by
  have hop {j : Instr} (hj : (opField w).toNat = (opcode j).toNat) : opcode j = opField w :=
    BitVec.eq_of_toNat_eq hj.symm
  have hlt := (opField w).isLt
  match hw : (opField w).toNat with
  | 0 => rw [decode_reservedOp (.inl hw)] at h; cases h
  | 1 =>
    rw [decode_op1 hw] at h
    obtain ⟨hi, ha, hb⟩ := decodeInit_eq_ok h
    exact ⟨hop (by rw [hi, hw]; rfl), ha, hb⟩
  | 2 =>
    rw [decode_op2 hw] at h
    split at h <;> cases h
    exact ⟨hop hw, rfl, rfl⟩
  | 3 =>
    rw [decode_op3 hw] at h
    split at h <;> cases h
    exact ⟨hop hw, rfl, rfl⟩
  | 4 =>
    rw [decode_op4 hw] at h
    obtain ⟨rfl, ha, hb⟩ := decodeBare_eq_ok h
    exact ⟨hop hw, ha.symm, hb.symm⟩
  | 5 =>
    rw [decode_op5 hw] at h
    obtain ⟨rfl, ha, hb⟩ := decodeBare_eq_ok h
    exact ⟨hop hw, ha.symm, hb.symm⟩
  | 6 =>
    rw [decode_op6 hw] at h
    obtain ⟨rfl, ha, hb⟩ := decodeBare_eq_ok h
    exact ⟨hop hw, ha.symm, hb.symm⟩
  | 7 => rw [decode_reservedOp (.inr hw)] at h; cases h
  | n + 8 => omega

/-- Settles O3: the three fields of a word that decodes are those of its command. -/
theorem encodeOfDecode : Obligations.EncodeOfDecode := by
  intro w i h
  obtain ⟨hop, ha, hb⟩ := fields_of_decode_eq_ok h
  rw [encode, hop, ha, hb, joinFields_fields]

/-! ## The verdict on a word -/

theorem opField_toNat (w : CommandWord) : (opField w).toNat = w.toNat / 65536 := by
  have := w.isLt
  rw [opField, BitVec.extractLsb'_toNat, Nat.shiftRight_eq_div_pow]
  omega

theorem aField_toNat (w : CommandWord) : (aField w).toNat = w.toNat / 256 % 256 := by
  rw [aField, BitVec.extractLsb'_toNat, Nat.shiftRight_eq_div_pow]

theorem bField_toNat (w : CommandWord) : (bField w).toNat = w.toNat % 256 := by
  rw [bField, BitVec.extractLsb'_toNat, Nat.shiftRight_zero]

theorem upperNibble_toNat (b : Byte) : (b.extractLsb' 4 4).toNat = b.toNat / 16 := by
  have := b.isLt
  rw [BitVec.extractLsb'_toNat, Nat.shiftRight_eq_div_pow]
  omega

theorem lowerNibble_toNat (b : Byte) : (b.extractLsb' 0 4).toNat = b.toNat % 16 := by
  rw [BitVec.extractLsb'_toNat, Nat.shiftRight_zero]

/-- Bits 7:1 of `A` are 0 exactly when `A` is 0 or 1. -/
theorem reserved_eq_zero_iff (a : Byte) : a.extractLsb' 1 7 = 0 ↔ a.toNat < 2 := by
  have := a.isLt
  rw [← BitVec.toNat_inj, BitVec.extractLsb'_toNat, Nat.shiftRight_eq_div_pow]
  change a.toNat / 2 ^ 1 % 2 ^ 7 = 0 ↔ _
  omega

/-- The averaging selectors are 0 to 4 (R74). -/
theorem averaging_ofSelector_eq_none : ∀ {v : BitVec 4},
    Averaging.ofSelector v = none ↔ 4 < v.toNat := by decide

/-- The type selectors are 0 to 7 (R74). -/
theorem thermoType_ofSelector_eq_none : ∀ {v : BitVec 4},
    ThermoType.ofSelector v = none ↔ 7 < v.toNat := by decide

section Init

variable {a b : Byte}

theorem decodeInit_badField (h : 2 ≤ a.toNat) : decodeInit a b = .error .badField := by
  refine if_pos fun hzero => ?_
  rw [reserved_eq_zero_iff] at hzero
  omega

/-- With `A` at 0 or 1, a selector outside its listing refuses the word (R74, R168). -/
theorem decodeInit_badSelector (h : a.toNat < 2) (hb : 4 < b.toNat / 16 ∨ 7 < b.toNat % 16) :
    decodeInit a b = .error .badSelector := by
  rw [← upperNibble_toNat, ← lowerNibble_toNat, ← averaging_ofSelector_eq_none,
    ← thermoType_ofSelector_eq_none] at hb
  rw [decodeInit, if_neg (not_not.2 ((reserved_eq_zero_iff a).2 h))]
  obtain havg | htc := hb
  · rw [havg]
  · rw [htc]
    cases Averaging.ofSelector (b.extractLsb' 4 4) <;> rfl

theorem decodeInit_legal (h : a.toNat < 2) (hu : b.toNat / 16 ≤ 4) (hl : b.toNat % 16 ≤ 7) :
    ∃ tc mode avg, decodeInit a b = .ok (.init tc mode avg) := by
  rw [← upperNibble_toNat, ← not_lt, ← averaging_ofSelector_eq_none] at hu
  rw [← lowerNibble_toNat, ← not_lt, ← thermoType_ofSelector_eq_none] at hl
  obtain ⟨avg, havg⟩ := Option.ne_none_iff_exists'.1 hu
  obtain ⟨tc, htc⟩ := Option.ne_none_iff_exists'.1 hl
  refine ⟨tc, ConvMode.ofSelector (a.extractLsb' 0 1), avg, ?_⟩
  rw [decodeInit, if_neg (not_not.2 ((reserved_eq_zero_iff a).2 h)), havg, htc]

end Init

theorem decodeBare_badField {a b : Byte} (i : Instr) (h : a.toNat ≠ 0 ∨ b.toNat ≠ 0) :
    decodeBare a b i = .error .badField := by
  refine if_neg fun ⟨ha, hb⟩ => ?_
  simp [ha, hb] at h

theorem decodeBare_legal {a b : Byte} (i : Instr) (ha : a.toNat = 0) (hb : b.toNat = 0) :
    decodeBare a b i = .ok i := if_pos ⟨BitVec.eq_of_toNat_eq ha, BitVec.eq_of_toNat_eq hb⟩

section Verdict

variable {w : CommandWord} {i : Instr}

theorem assessWord_of_decode_error {r : Reason} (h : decode w = .error r) :
    assessWord w = .error r := by
  simp only [assessWord, h]

theorem assessWord_of_illegal {r : Reason} (h : decode w = .ok i) (hi : illegalReason i = some r) :
    assessWord w = .error r := by
  simp only [assessWord, h, hi]

/-- A word that decodes to a legal command is the one word of that command (R75). -/
theorem assessWord_of_legal (h : decode w = .ok i) (hi : i.wellFormed = true) :
    ∃ j, assessWord w = .ok j ∧ j.wellFormed = true ∧ encode j = w :=
  ⟨i, by simp only [assessWord, h, (wellFormed_iff_legal i).1 hi], hi, encodeOfDecode w i h⟩

/-- The three rows without operands decode alike. -/
theorem decode_bare_row (h4 : 4 ≤ (opField w).toNat) (h6 : (opField w).toNat ≤ 6) :
    ∃ i, i.wellFormed = true ∧ decode w = decodeBare (aField w) (bField w) i := by
  obtain h | h | h : (opField w).toNat = 4 ∨ (opField w).toNat = 5 ∨ (opField w).toNat = 6 := by
    omega
  · exact ⟨.rdcj, rfl, decode_op4 h⟩
  · exact ⟨.rdtc, rfl, decode_op5 h⟩
  · exact ⟨.rdflt, rfl, decode_op6 h⟩

end Verdict

/-- Settles O4: each clause is one row of the decoder, and the length of RDREGS is its command's
check. -/
theorem wordVerdictIsFirstReason : Obligations.WordVerdictIsFirstReason := by
  intro w op a b hop ha hb
  rw [← opField_toNat] at hop
  rw [← aField_toNat] at ha
  rw [← bField_toNat] at hb
  subst hop ha hb
  refine ⟨fun h => ?_, ?_, fun ⟨hop, ha, hb⟩ => ?_, ?_, fun ⟨hop, ha, hb⟩ => ?_, ?_⟩
  · exact assessWord_of_decode_error (decode_reservedOp h)
  · rintro (⟨hop, ha⟩ | ⟨h4, h6, hab⟩)
    · exact assessWord_of_decode_error ((decode_op1 hop).trans (decodeInit_badField ha))
    · obtain ⟨i, -, hi⟩ := decode_bare_row h4 h6
      exact assessWord_of_decode_error (hi.trans (decodeBare_badField i hab))
  · exact assessWord_of_decode_error ((decode_op1 hop).trans (decodeInit_badSelector ha hb))
  · rintro (⟨hop, ha⟩ | ⟨hop, ha⟩)
    · exact assessWord_of_decode_error ((decode_op2 hop).trans (if_neg (by omega)))
    · exact assessWord_of_decode_error ((decode_op3 hop).trans (if_neg (by omega)))
  · refine assessWord_of_illegal ((decode_op2 hop).trans (if_pos ha)) ?_
    simp only [illegalReason, inRaddr, ha, decide_true, if_true]
    split_ifs with hzero hle
    · rfl
    · omega
    · rfl
  · rintro (⟨hop, ha, hu, hl⟩ | ⟨hop, ha, hlo, hhi⟩ | ⟨hop, hlo, hhi⟩ | ⟨h4, h6, ha, hb⟩)
    · obtain ⟨tc, mode, avg, hi⟩ := decodeInit_legal ha hu hl
      exact assessWord_of_legal ((decode_op1 hop).trans hi) rfl
    · exact assessWord_of_legal ((decode_op2 hop).trans (if_pos ha))
        (by simp [Instr.wellFormed, ha, hlo, hhi])
    · exact assessWord_of_legal ((decode_op3 hop).trans (if_pos ⟨hlo, hhi⟩))
        (by simp [Instr.wellFormed, hlo, hhi])
    · obtain ⟨i, hwf, hi⟩ := decode_bare_row h4 h6
      exact assessWord_of_legal (hi.trans (decodeBare_legal i ha hb)) hwf

/-- Settles O1: each word is decoded. -/
theorem specWordsDecode : Obligations.SpecWordsDecode := by
  unfold Obligations.SpecWordsDecode
  decide

end Sys2Proof.Machine

/-! PROOFS. The decoders as signed readings of the container's bits above the padding (R142, R143,
R144, R146). -/

namespace Sys2Proof.Machine

/-! ## Two's-complement readings -/

section Signed

variable {w : Nat} (hw : 1 ≤ w)
include hw

theorem lt_two_pow_iff {a : Nat} : a < 2 ^ w ↔ (a : Int) < 2 * 2 ^ (w - 1) := by
  rw [← pow_succ', Nat.sub_add_cancel hw]
  exact_mod_cast Iff.rfl

theorem signedOf_eq_ite (a : Nat) :
    signedOf w a = if (2 : Int) ^ (w - 1) ≤ a then (a : Int) - 2 * 2 ^ (w - 1) else a := by
  rw [← pow_succ', Nat.sub_add_cancel hw, signedOf]
  exact_mod_cast rfl

/-- A number below `2^w` reads as one in the signed range of `w` bits. -/
theorem signedOf_bounds {a : Nat} (ha : a < 2 ^ w) :
    -(2 : Int) ^ (w - 1) ≤ signedOf w a ∧ signedOf w a < 2 ^ (w - 1) := by
  rw [lt_two_pow_iff hw] at ha
  rw [signedOf_eq_ite hw]
  split <;> omega

/-- Numbers below `2^w` that read alike are equal. -/
theorem signedOf_inj {a b : Nat} (ha : a < 2 ^ w) (hb : b < 2 ^ w) :
    signedOf w a = signedOf w b ↔ a = b := by
  rw [lt_two_pow_iff hw] at ha hb
  rw [signedOf_eq_ite hw, signedOf_eq_ite hw]
  split <;> split <;> omega

/-- Every number of the signed range of `w` bits is a reading. -/
theorem exists_signedOf_eq {v : Int} (hlo : -(2 : Int) ^ (w - 1) ≤ v) (hhi : v < 2 ^ (w - 1)) :
    ∃ a, a < 2 ^ w ∧ signedOf w a = v := by
  simp only [lt_two_pow_iff hw, signedOf_eq_ite hw]
  obtain hneg | hpos := lt_or_ge v 0
  · exact ⟨(v + 2 * 2 ^ (w - 1)).toNat, by omega, by rw [if_pos] <;> omega⟩
  · exact ⟨v.toNat, by omega, by rw [if_neg] <;> omega⟩

/-- The general decode is the signed reading of the container's top `w` bits (R144). -/
theorem dec_eq_signedOf {bytes : List Byte} (hle : w ≤ 8 * bytes.length) :
    dec w bytes = signedOf w (container bytes >>> (8 * bytes.length - w)) := by
  obtain ⟨-, hmag, htop⟩ := dec_main w bytes hw hle
  rw [htop, signedOf_eq_ite hw, dec]
  have hmag' : (decMagnitude w bytes : Int) < 2 ^ (w - 1) := mod_cast hmag
  cases decSign bytes with
  | false => simp [hmag'.not_ge]
  | true =>
    rw [if_pos rfl, if_pos rfl, if_pos (by push_cast; omega)]
    push_cast
    ring

end Signed

/-! ## The two decoders -/

/-- `ACC` with one more byte joined below it, while it has room for the byte. -/
theorem acc_append_byte (acc : AccWord) (b : Byte) (h : acc.toNat < 2 ^ 16) :
    (acc <<< 8 ||| b.setWidth 24).toNat = acc.toNat * 256 + b.toNat := by
  have hb := b.isLt
  have hshift : (acc <<< 8).toNat = acc.toNat <<< 8 := by
    rw [BitVec.toNat_shiftLeft, Nat.shiftLeft_eq, Nat.mod_eq_of_lt (by omega)]
  rw [BitVec.toNat_or, hshift, BitVec.toNat_setWidth_of_le (by decide),
    ← Nat.shiftLeft_add_eq_or_of_lt hb, Nat.shiftLeft_eq]

/-- The first byte of a sample with its sign bit masked off, in `ACC`. -/
theorem acc_first_byte (b : Byte) :
    ((b &&& 0x7F).setWidth 24 : AccWord).toNat = (b &&& 0x7F).toNat ∧ (b &&& 0x7F).toNat < 128 :=
  ⟨BitVec.toNat_setWidth_of_le (by decide), (byte_split b).2⟩

theorem decCj_acc (b₀ b₁ : Byte) : (decCj b₀ b₁).acc.toNat = decAcc [b₀, b₁] := by
  obtain ⟨hfirst, hlt⟩ := acc_first_byte b₀
  have hacc := acc_append_byte ((b₀ &&& 0x7F).setWidth 24) b₁ (by omega)
  refine hacc.trans ?_
  simp only [hfirst, decAcc, container, List.foldl_cons, List.foldl_nil, Nat.zero_mul,
    Nat.zero_add]

theorem decTc_acc (b₀ b₁ b₂ : Byte) : (decTc b₀ b₁ b₂).acc.toNat = decAcc [b₀, b₁, b₂] := by
  obtain ⟨hfirst, hlt⟩ := acc_first_byte b₀
  have hacc := acc_append_byte ((b₀ &&& 0x7F).setWidth 24) b₁ (by omega)
  have hjoin : (decTc b₀ b₁ b₂).acc =
      ((b₀ &&& 0x7F).setWidth 24 <<< 8 ||| b₁.setWidth 24) <<< 8 ||| b₂.setWidth 24 := by
    rw [BitVec.shiftLeft_or_distrib, ← BitVec.shiftLeft_add]
    rfl
  rw [hjoin, acc_append_byte _ b₂ (by omega), hacc, hfirst]
  simp only [decAcc, container, List.foldl_cons, List.foldl_nil, Nat.zero_mul, Nat.zero_add]

/-- The cold-junction decoder is the general decode of two bytes to 14 bits (R142). -/
theorem decCj_int (b₀ b₁ : Byte) : (decCj b₀ b₁).int = dec 14 [b₀, b₁] := by
  have hmag : ((decCj b₀ b₁).acc >>> 2).toNat = decMagnitude 14 [b₀, b₁] := by
    rw [BitVec.toNat_ushiftRight, decCj_acc]; rfl
  rw [dec, ← hmag]
  rfl

/-- The thermocouple decoder is the general decode of three bytes to 19 bits (R143). -/
theorem decTc_int (b₀ b₁ b₂ : Byte) : (decTc b₀ b₁ b₂).int = dec 19 [b₀, b₁, b₂] := by
  have hmag : ((decTc b₀ b₁ b₂).acc >>> 5).toNat = decMagnitude 19 [b₀, b₁, b₂] := by
    rw [BitVec.toNat_ushiftRight, decTc_acc]; rfl
  rw [dec, ← hmag]
  rfl

/-- The cold-junction value is the container above its two padding bits, read with its sign. -/
theorem decCj_eq_signedOf (b₀ b₁ : Byte) :
    (decCj b₀ b₁).int = signedOf 14 (b₀.toNat * 64 + b₁.toNat / 4) := by
  rw [decCj_int, dec_eq_signedOf (by decide) (by simp)]
  congr 1
  simp only [container, List.foldl_cons, List.foldl_nil, List.length_cons, List.length_nil,
    Nat.shiftRight_eq_div_pow]
  omega

/-- The thermocouple value is the container above its five padding bits, read with its sign. -/
theorem decTc_eq_signedOf (b₀ b₁ b₂ : Byte) :
    (decTc b₀ b₁ b₂).int = signedOf 19 (b₀.toNat * 2048 + b₁.toNat * 8 + b₂.toNat / 32) := by
  rw [decTc_int, dec_eq_signedOf (by decide) (by simp)]
  congr 1
  simp only [container, List.foldl_cons, List.foldl_nil, List.length_cons, List.length_nil,
    Nat.shiftRight_eq_div_pow]
  omega

/-- `VAL` has room for a cold-junction value (R29, R148). -/
theorem decCj_bounds (b₀ b₁ : Byte) :
    -8192 ≤ (decCj b₀ b₁).int ∧ (decCj b₀ b₁).int < 8192 := by
  have := b₀.isLt; have := b₁.isLt
  rw [decCj_eq_signedOf]
  exact signedOf_bounds (w := 14) (by decide) (by omega)

/-- `VAL` has room for a thermocouple value (R29, R148). -/
theorem decTc_bounds (b₀ b₁ b₂ : Byte) :
    -262144 ≤ (decTc b₀ b₁ b₂).int ∧ (decTc b₀ b₁ b₂).int < 262144 := by
  have := b₀.isLt; have := b₁.isLt; have := b₂.isLt
  rw [decTc_eq_signedOf]
  exact signedOf_bounds (w := 19) (by decide) (by omega)

theorem decCj_onto {v : Int} (hlo : -8192 ≤ v) (hhi : v ≤ 8191) :
    ∃ b₀ b₁ : Byte, (decCj b₀ b₁).int = v := by
  obtain ⟨a, ha, rfl⟩ := exists_signedOf_eq (w := 14) (by decide) (v := v) (by omega) (by omega)
  refine ⟨BitVec.ofNat 8 (a / 64), BitVec.ofNat 8 (a % 64 * 4), ?_⟩
  rw [decCj_eq_signedOf, BitVec.toNat_ofNat, BitVec.toNat_ofNat]
  congr 1
  omega

theorem decTc_onto {v : Int} (hlo : -262144 ≤ v) (hhi : v ≤ 262143) :
    ∃ b₀ b₁ b₂ : Byte, (decTc b₀ b₁ b₂).int = v := by
  obtain ⟨a, ha, rfl⟩ := exists_signedOf_eq (w := 19) (by decide) (v := v) (by omega) (by omega)
  refine ⟨BitVec.ofNat 8 (a / 2048), BitVec.ofNat 8 (a / 8 % 256), BitVec.ofNat 8 (a % 8 * 32), ?_⟩
  rw [decTc_eq_signedOf, BitVec.toNat_ofNat, BitVec.toNat_ofNat, BitVec.toNat_ofNat]
  congr 1
  omega

theorem decCj_eq_iff (b₀ b₁ c₀ c₁ : Byte) : (decCj b₀ b₁).int = (decCj c₀ c₁).int ↔
    b₀ = c₀ ∧ b₁.toNat / 4 = c₁.toNat / 4 := by
  have := b₀.isLt; have := b₁.isLt; have := c₀.isLt; have := c₁.isLt
  rw [decCj_eq_signedOf, decCj_eq_signedOf, signedOf_inj (by decide) (by omega) (by omega),
    ← BitVec.toNat_inj]
  omega

theorem decTc_eq_iff (b₀ b₁ b₂ c₀ c₁ c₂ : Byte) :
    (decTc b₀ b₁ b₂).int = (decTc c₀ c₁ c₂).int ↔
      b₀ = c₀ ∧ b₁ = c₁ ∧ b₂.toNat / 32 = c₂.toNat / 32 := by
  have := b₀.isLt; have := b₁.isLt; have := b₂.isLt
  have := c₀.isLt; have := c₁.isLt; have := c₂.isLt
  rw [decTc_eq_signedOf, decTc_eq_signedOf, signedOf_inj (by decide) (by omega) (by omega),
    ← BitVec.toNat_inj, ← BitVec.toNat_inj]
  omega

/-- Settles O57: every signed reading is one of a sample, and the readings tell apart the bits above
the padding. -/
theorem decodersAreOntoUpToPadding : Obligations.DecodersAreOntoUpToPadding :=
  ⟨fun _ => decCj_onto, decCj_eq_iff, fun _ => decTc_onto, decTc_eq_iff⟩

end Sys2Proof.Machine

/-! PROOFS. The CR1 byte (R80), and the codes of a response (R87, R161, R168). -/

namespace Sys2Proof.Machine

/-! ## The CR1 byte -/

/-- The CR1 byte is its two codes side by side (R80). -/
theorem packCr1_eq_append (avgCode tcCode : BitVec 4) :
    packCr1 avgCode tcCode = (avgCode ++ tcCode : Byte) := by
  revert avgCode tcCode
  decide

theorem packCr1_toNat (avgCode tcCode : BitVec 4) :
    (packCr1 avgCode tcCode).toNat = avgCode.toNat * 16 + tcCode.toNat := by
  rw [packCr1_eq_append, BitVec.toNat_append, ← Nat.shiftLeft_add_eq_or_of_lt tcCode.isLt,
    Nat.shiftLeft_eq]

/-- Settles O7: the two nibbles of the joined codes. -/
theorem cr1BytePacksTheTwoCodes : Obligations.Cr1BytePacksTheTwoCodes := by
  refine ⟨fun avgCode tcCode => ⟨?_, ?_, packCr1_toNat avgCode tcCode⟩, fun _ _ => rfl, rfl⟩
  · rw [packCr1_eq_append]; exact upperNibble_append avgCode tcCode
  · rw [packCr1_eq_append]; exact lowerNibble_append avgCode tcCode

/-! ## The codes of a response -/

theorem statusCode_ne_3 (r : Response) : r.statusCode ≠ 0b11#2 := by
  cases r with
  | ok v => exact (by decide : 0b00#2 ≠ 0b11#2)
  | xfail c => exact (by decide : 0b01#2 ≠ 0b11#2)
  | refused e => exact (by decide : 0b10#2 ≠ 0b11#2)

theorem failPhase_code_lt_two (p : FailPhase) : p.code < 2 := by
  cases p <;> decide

theorem failPhase_code_injective {p q : FailPhase} (h : p.code = q.code) : p = q := by
  cases p <;> cases q
  · rfl
  · cases h
  · cases h
  · rfl

/-- The cause code is a number of two binary digits, frame and phase (R161). -/
theorem cause_code_injective {c d : Cause} (h : c.code = d.code) :
    c.frame = d.frame ∧ c.phase = d.phase := by
  have hc := failPhase_code_lt_two c.phase
  have hd := failPhase_code_lt_two d.phase
  unfold Cause.code at h
  exact ⟨Fin.ext (by omega), failPhase_code_injective (by omega)⟩

/-- The refusal reasons in the order of their checks (R168). -/
def reasonOrder : List Reason :=
  [.badOp, .badField, .badSelector, .badAddress, .badLength, .notConfigured, .alreadyConfigured]

theorem mem_reasonOrder (r : Reason) : r ∈ reasonOrder := by cases r <;> decide

theorem reasonCode_injective {r r' : Reason} (h : reasonCode r = reasonCode r') : r = r' :=
  List.inj_on_of_nodup_map (f := reasonCode) (by decide : (reasonOrder.map _).Nodup)
    (mem_reasonOrder r) (mem_reasonOrder r') h

theorem reasonCode_bounds (r : Reason) : 1 ≤ reasonCode r ∧ reasonCode r ≤ 7 :=
  (by decide : ∀ r ∈ reasonOrder, 1 ≤ reasonCode r ∧ reasonCode r ≤ 7) r (mem_reasonOrder r)

/-- Settles O8: the tables of the three codes, and that each tells its arguments apart. -/
theorem responseCodes : Obligations.ResponseCodes :=
  ⟨fun _ => rfl, fun _ => rfl, fun _ => rfl, statusCode_ne_3, rfl, rfl, fun _ => rfl,
    rfl, rfl, rfl, rfl, rfl, rfl, rfl, fun _ _ => cause_code_injective,
    fun _ => ⟨rfl, rfl, rfl⟩, fun _ _ => reasonCode_injective, reasonCode_bounds⟩

end Sys2Proof.Machine

/-! PROOFS. Commands that do the same on the bus: a query and the register read with its frame, INIT
and two register writes (R86). -/

namespace Sys2Proof.Machine

/-! ## Two commands with one frame -/

/-- Legal commands are refused alike where neither or both are INIT: by `cfgd` alone (R166). -/
theorem refusalReason_congr {i j : Instr} (hi : i.wellFormed = true) (hj : j.wellFormed = true)
    (hinit : isInit i = isInit j) (cfgd : Bool) : refusalReason i cfgd = refusalReason j cfgd := by
  rw [wellFormed_iff_legal] at hi hj
  simp only [refusalReason, hi, hj, admissionReason, hinit]

/-- Two commands offered to an idle block that refuses them alike: what holds of equal refusals and
of their bodies holds of their next states. -/
theorem exec_pair {i j : Instr} {s : State} {P : State → State → Prop} (hidle : s.ph = .idle)
    (hr : refusalReason i s.cfgd = refusalReason j s.cfgd)
    (hrefuse : ∀ r, P (s.refuse r) (s.refuse r))
    (hrun : P (commandBody i (s.accept i)) (commandBody j (s.accept j))) :
    ∃ t u, exec i s = .next t ∧ exec j s = .next u ∧ P t u := by
  cases hj : refusalReason j s.cfgd with
  | none => exact ⟨_, _, exec_admitted hidle (hr.trans hj), exec_admitted hidle hj, hrun⟩
  | some r => exact ⟨_, _, exec_refused hidle (hr.trans hj), exec_refused hidle hj, hrefuse r⟩

/-- Commands with the same frame end it alike: a frame does not read which command runs it. -/
theorem runFrame_accept_endsAlike {i j : Instr} (hframe : frameOf i 0 = frameOf j 0) (s : State) :
    (frameOf j 0).EndsAlike s.withoutHistory (runFrame (frameOf i 0) (s.accept i))
      (runFrame (frameOf j 0) (s.accept j)) := by
  rw [hframe]
  have h : s.withoutHistory.Continues (s.accept i) (s.accept j) :=
    ⟨rfl, rfl, rfl, rfl, rfl, rfl, rfl, rfl, rfl, rfl⟩
  exact runFrame_endsAlike _ h

/-- After a good read frame `n` is the count asked for, and `RXBUF` begins with that many bytes
received (R10, R111). -/
theorem runFrame_read_ok {a : Byte} {n : Nat} {s t : State}
    (h : runFrame (.read a n) s = (.ok, t)) :
    t.work.n = n ∧ ∃ k bytes, bytes.length = n ∧ t.work.rx = rxHolding k bytes := by
  change rframe a n (s.setN n) = (.ok, t) at h
  cases h₀ : (s.setN n).replyAt 0 with
  | never => rw [rframe_addr_hang a n _ h₀] at h; cases h
  | fail e => rw [rframe_addr_fail a n _ e h₀] at h; cases h
  | ok r b =>
    cases h₁ : (s.setN n).replyAt 1 with
    | never => rw [rframe_data_hang a n _ r b h₀ h₁] at h; cases h
    | fail e => rw [rframe_data_fail a n _ r b e h₀ h₁] at h; cases h
    | ok r' listed =>
      rw [rframe_ok a n _ r r' b listed h₀ h₁] at h
      cases h
      exact ⟨rfl, _, _, servedBytes_length _ listed n, rfl⟩

/-! ## A register read and the value decoded from it -/

/-- `t` ends as the register read `u` of `s` does, but answers the value of the bytes that `u`
answers (R86). -/
structure State.AnswersValueOf (value : List Byte → Int) (s t u : State) : Prop where
  events : t.events = u.events
  read : ∀ bytes, u.responses = s.responses ++ [.ok (.data bytes)] →
    ∃ v, t.responses = s.responses ++ [.ok (.val v)] ∧ v.toInt = value bytes
  noRead : (∀ bytes, u.responses ≠ s.responses ++ [.ok (.data bytes)]) → t.responses = u.responses

section AnswersValueOf

variable {value : List Byte → Int} {s t u : State}

/-- Where the read answers no data, both answer the same. -/
theorem State.AnswersValueOf.of_no_data (hev : t.events = u.events)
    (hresp : t.responses = u.responses)
    (hno : ∀ bytes, u.responses ≠ s.responses ++ [.ok (.data bytes)]) :
    s.AnswersValueOf value t u := ⟨hev, fun bytes h => absurd h (hno bytes), fun _ => hresp⟩

theorem State.AnswersValueOf.of_data {bytes : List Byte} {v : ValWord} (hev : t.events = u.events)
    (hu : u.responses = s.responses ++ [.ok (.data bytes)])
    (ht : t.responses = s.responses ++ [.ok (.val v)]) (hv : v.toInt = value bytes) :
    s.AnswersValueOf value t u := by
  refine ⟨hev, fun bytes' h => ⟨v, ht, ?_⟩, fun hno => absurd hu (hno bytes)⟩
  obtain rfl : bytes = bytes' := by simpa [hu] using h
  exact hv

theorem State.AnswersValueOf.refuse (r : Reason) :
    s.AnswersValueOf value (s.refuse r) (s.refuse r) :=
  .of_no_data rfl rfl (by simp)

end AnswersValueOf

/-- The end of the command `i` delivers the value of the first `n` entries of `RXBUF`. -/
def FinishesWithValue (value : List Byte → Int) (n : Nat) (i : Instr) : Prop :=
  ∀ (t : State) (k : Nat) (bytes : List Byte), bytes.length = n → t.work.rx = rxHolding k bytes →
    ∃ v, (finishCommand i t).responses = t.responses ++ [.ok (.val v)] ∧ v.toInt = value bytes

/-- A command with the frame of a register read that ends with the value of its bytes. -/
theorem commandBody_answersValueOf {i : Instr} {a len : Byte} {value : List Byte → Int}
    (hi : isInit i = false) (hframe : frameOf i 0 = .read a len.toNat)
    (hfinish : FinishesWithValue value len.toNat i) (s : State) :
    s.AnswersValueOf value (commandBody i (s.accept i))
      (commandBody (.rdregs a len) (s.accept (.rdregs a len))) := by
  rw [commandBody_of_not_init hi, commandBody_of_not_init rfl]
  have halike := runFrame_accept_endsAlike (i := i) (j := .rdregs a len) hframe s
  have hsilent := runFrame_silent (frameOf (.rdregs a len) 0) (s.accept (.rdregs a len))
  generalize runFrame (frameOf i 0) (s.accept i) = x at halike
  generalize hy : runFrame (frameOf (.rdregs a len) 0) (s.accept (.rdregs a len)) = y
    at halike hsilent
  obtain ⟨e, t⟩ := x
  obtain ⟨e', u⟩ := y
  obtain ⟨rfl, hc, hwork⟩ : e = e' ∧ s.withoutHistory.Continues t u ∧
    (Frame.read a len.toNat).AgreesOn e t.work u.work := halike
  have hev : t.events = u.events := hc.events
  have hresp : t.responses = u.responses := hc.responses
  have hu : u.responses = s.responses := hsilent.1
  cases e with
  | hang => exact .of_no_data hev hresp (by simp [endCommand, hu])
  | fail =>
    obtain ⟨hfph, hxerr⟩ := hwork
    refine .of_no_data hev ?_ (by simp [endCommand, raiseXfail_eq, hu])
    simp only [endCommand, raiseXfail_eq, respond_responses, hresp, hfph, hxerr]
  | ok =>
    obtain ⟨hrx, -⟩ := hwork
    obtain ⟨hn, k, bytes, hlen, hholds⟩ := runFrame_read_ok hy
    obtain ⟨v, hv, hvalue⟩ := hfinish t k bytes hlen (hrx.trans hholds)
    refine .of_data (bytes := bytes) ?_ ?_ (hv.trans ?_) hvalue
    · exact (finishCommand_events i t).trans hev
    · show u.finishData.responses = _
      rw [finishData_eq, respond_responses, hu, hholds, hn, ← hlen, take_rxHolding]
    · rw [hresp, hu]

/-- On every path such a command ends as the register read does (R86). -/
theorem exec_answersValueOf {i : Instr} {a len : Byte} {value : List Byte → Int}
    (hi : isInit i = false) (hwf : i.wellFormed = true)
    (hread : (Instr.rdregs a len).wellFormed = true) (hframe : frameOf i 0 = .read a len.toNat)
    (hfinish : FinishesWithValue value len.toNat i) {s : State} (hidle : s.ph = .idle) :
    ∃ t u, exec i s = .next t ∧ exec (.rdregs a len) s = .next u ∧ s.AnswersValueOf value t u :=
  exec_pair hidle (refusalReason_congr hwf hread hi s.cfgd) .refuse
    (commandBody_answersValueOf hi hframe hfinish s)

/-! ## The three queries -/

theorem rxByte_of_holding {t : State} {k i : Nat} {bytes : List Byte}
    (h : t.work.rx = rxHolding k bytes) (hi : i < bytes.length) : t.rxByte i = bytes[i] := by
  simp only [State.rxByte, h, getElem?_rxHolding k bytes i hi]

/-- RDCJ ends with the 14-bit value of its two bytes, which `VAL` holds (R130). -/
theorem finishesWithValue_rdcj : FinishesWithValue (dec 14) 2 .rdcj := by
  intro t k bytes hlen hrx
  obtain ⟨b₀, b₁, rfl⟩ := List.length_eq_two.1 hlen
  have h₀ : t.rxByte 0 = b₀ := rxByte_of_holding hrx (by simp)
  have h₁ : t.rxByte 1 = b₁ := rxByte_of_holding hrx (by simp)
  refine ⟨BitVec.ofInt 19 (decCj (t.rxByte 0) (t.rxByte 1)).int, rfl, ?_⟩
  obtain ⟨hlo, hhi⟩ := decCj_bounds b₀ b₁
  rw [h₀, h₁, toInt_ofInt19 _ (by omega) (by omega), decCj_int]

/-- RDTC ends with the 19-bit value of its three bytes (R131). -/
theorem finishesWithValue_rdtc : FinishesWithValue (dec 19) 3 .rdtc := by
  intro t k bytes hlen hrx
  obtain ⟨b₀, b₁, b₂, rfl⟩ := List.length_eq_three.1 hlen
  have h₀ : t.rxByte 0 = b₀ := rxByte_of_holding hrx (by simp)
  have h₁ : t.rxByte 1 = b₁ := rxByte_of_holding hrx (by simp)
  have h₂ : t.rxByte 2 = b₂ := rxByte_of_holding hrx (by simp)
  refine ⟨BitVec.ofInt 19 (decTc (t.rxByte 0) (t.rxByte 1) (t.rxByte 2)).int, rfl, ?_⟩
  obtain ⟨hlo, hhi⟩ := decTc_bounds b₀ b₁ b₂
  rw [h₀, h₁, h₂, toInt_ofInt19 _ (by omega) (by omega), decTc_int]

/-- A read of at most three bytes from the map is legal whatever `MAX_LEN` is (R7, R44). -/
theorem rdregs_wellFormed {addr len : Byte} (ha : addr.toNat ≤ 0x0F) (hlo : 1 ≤ len.toNat)
    (hhi : len.toNat ≤ 3) : (Instr.rdregs addr len).wellFormed = true := by
  simp [Instr.wellFormed, ha, hlo, hhi.trans three_le_maxLen]

/-- RDFLT and its register read have one body (R132). -/
theorem commandBody_rdflt_continues (s : State) :
    s.withoutHistory.Continues (commandBody .rdflt (s.accept .rdflt))
      (commandBody (.rdregs 0x0F 1) (s.accept (.rdregs 0x0F 1))) := by
  have halike := runFrame_accept_endsAlike (i := .rdflt) (j := .rdregs 0x0F 1) rfl s
  have hend : endCommand .rdflt 0 = endCommand (.rdregs 0x0F 1) 0 := by
    funext ⟨e, t⟩
    cases e <;> rfl
  rw [commandBody_of_not_init rfl, commandBody_of_not_init rfl, hend]
  exact endCommand_continues 0 halike

/-- Settles O37: a query runs the frame of its register read and differs from it in its good end
alone. -/
theorem queriesAreRegisterReads : Obligations.QueriesAreRegisterReads := by
  intro s hidle
  refine ⟨?_, ?_, ?_⟩
  · have hread : (Instr.rdregs 0x0F 1).wellFormed = true :=
      rdregs_wellFormed (by decide) (by decide) (by decide)
    refine exec_pair hidle (refusalReason_congr rfl hread rfl s.cfgd) (fun _ => ⟨rfl, rfl⟩) ?_
    have hc := commandBody_rdflt_continues s
    exact ⟨hc.events, hc.responses⟩
  · obtain ⟨t, u, ht, hu, h⟩ := exec_answersValueOf (a := 0x0A) (len := 2) rfl rfl
      (rdregs_wellFormed (by decide) (by decide) (by decide)) rfl finishesWithValue_rdcj hidle
    exact ⟨t, u, ht, hu, h.events, h.read, h.noRead⟩
  · obtain ⟨t, u, ht, hu, h⟩ := exec_answersValueOf (a := 0x0C) (len := 3) rfl rfl
      (rdregs_wellFormed (by decide) (by decide) (by decide)) rfl finishesWithValue_rdtc hidle
    exact ⟨t, u, ht, hu, h.events, h.read, h.noRead⟩

/-! ## INIT and two register writes -/

theorem replyAt_of_listed {s : State} {k : Nat} {r : Reply} (h : s.replies[k]? = some r) :
    s.replyAt k = r := by
  simp only [State.replyAt, h]

/-- A good write frame takes the chip through its three calls; the draw numbers play no part
(R61, R112). -/
theorem written_chip {a v : Byte} {s : State} {r : XRes} {b : List Byte}
    (h : s.replyAt 0 = .ok r b) :
    (written a v r s).chip =
      s.onChip (Chip.onSelect .inactive ∘ Chip.onWrite [a, v] none ∘ Chip.onSelect .active) := by
  have hcall : ((writeReady a v s).callXw [a, v]).2.chip =
      (writeReady a v s).onChip (Chip.onWrite [a, v] none) := by
    rw [callXw_chip, writeReady_replyAt, h]
    rfl
  have hrelease : (written a v r s).chip =
      ((writeReady a v s).callXw [a, v]).2.onChip (Chip.onSelect .inactive) := rfl
  cases hf : s.far with
  | oracle =>
    rw [hrelease, onChip_oracle _ (by exact hf), hcall, onChip_oracle _ (by exact hf),
      onChip_oracle _ hf]
    exact onChip_oracle (Chip.onSelect .active) (s := s.setPh .sel) hf
  | refChip =>
    rw [hrelease, onChip_ref _ _ (by exact hf), hcall, onChip_ref _ _ (by exact hf),
      onChip_ref _ _ hf]
    exact congrArg _ (congrArg _ (onChip_ref (Chip.onSelect .active) (s.setPh .sel) hf))

@[simp] theorem written_replies (a v : Byte) (r : XRes) (s : State) :
    (written a v r s).replies = s.replies.tail := rfl

/-- Good write frames from equal chips leave equal chips. -/
theorem written_chip_congr {a v : Byte} {s t : State} {r : XRes} {b : List Byte}
    (hs : s.replyAt 0 = .ok r b) (ht : t.replyAt 0 = .ok r b) (hfar : t.far = s.far)
    (hchip : t.chip = s.chip) : (written a v r t).chip = (written a v r s).chip := by
  rw [written_chip hs, written_chip ht, State.onChip, State.onChip, hfar, hchip]

/-- WRREG on a listed good reply: the block is idle again with the other replies to come, and the
trace and the chip are those of its one write frame (R115). -/
theorem exec_wrreg_listed {addr : Byte} (val : Byte) {s : State} {r : XRes} {b : List Byte}
    {rest : List Reply} (hidle : s.ph = .idle) (hc : s.cfgd = true) (ha : inWaddr addr = true)
    (hreplies : s.replies = .ok r b :: rest) :
    ∃ u, exec (.wrreg addr val) s = .next u ∧ u.ph = .idle ∧ u.cfgd = true ∧ u.replies = rest ∧
      u.far = s.far ∧
      u.events = s.events ++ [.cs .active, .xw [addr, val] (.ok r), .cs .inactive] ∧
      u.chip = (written addr val r s).chip := by
  have h : s.replyAt 0 = .ok r b := replyAt_of_listed (by rw [hreplies]; rfl)
  have hev := written_events (a := addr) (v := val) (s := s.accept (.wrreg addr val)) h
  have hchip : (written addr val r (s.accept (.wrreg addr val))).chip =
      (written addr val r s).chip := written_chip_congr h h rfl rfl
  refine ⟨(written addr val r (s.accept (.wrreg addr val))).finishWres, ?_, ?_⟩
  · rw [exec_wrreg val hidle hc ha, commandBody_wrreg_ok (s := s.accept _) h]
  · simp [finishWres_eq, hc, hreplies, hev, hchip]

/-- An idle block that is not configured and whose next two replies are good ends INIT after its two
write frames. -/
theorem exec_init_ok (tc : ThermoType) (mode : ConvMode) (avg : Averaging) {s : State}
    {r₀ r₁ : XRes} {b₀ b₁ : List Byte} (hidle : s.ph = .idle) (hc : s.cfgd = false)
    (h₀ : s.replyAt 0 = .ok r₀ b₀) (h₁ : s.replyAt 1 = .ok r₁ b₁) :
    exec (.init tc mode avg) s =
      .next ((initWritten tc mode avg r₀ r₁ (s.accept (.init tc mode avg))).finishInit
        { tc := tc, mode := mode, avg := avg }) := by
  rw [exec_admitted hidle (by rw [hc]; rfl), commandBody_init_ok (s := s.accept _) h₀ h₁]

/-- Settles O38: INIT and the two commands run the same two write frames, each with the same
reply. -/
theorem initTraceIsTwoRegisterWrites : Obligations.InitTraceIsTwoRegisterWrites := by
  intro tc mode avg s r₀ r₁ b₀ b₁ rest hidle hc hreplies
  have h₀ : s.replyAt 0 = .ok r₀ b₀ := replyAt_of_listed (by rw [hreplies]; rfl)
  have h₁ : s.replyAt 1 = .ok r₁ b₁ := replyAt_of_listed (by rw [hreplies]; rfl)
  obtain ⟨u₁, he₁, hidle₁, hc₁, hreplies₁, hfar₁, hev₁, hchip₁⟩ :=
    exec_wrreg_listed (addr := 0x80) (Config.cr0Code mode) (s := { s with cfgd := true })
      hidle rfl (by decide) hreplies
  obtain ⟨u₂, he₂, -, -, -, -, hev₂, hchip₂⟩ :=
    exec_wrreg_listed (addr := 0x81) (cr1Value avg tc) hidle₁ hc₁ (by decide) hreplies₁
  refine ⟨_, u₁, u₂, exec_init_ok tc mode avg hidle hc h₀ h₁, he₁, he₂, ?_, ?_⟩
  · rw [finishInit_eq, respond_events, hev₂, hev₁]
    exact (initWritten_events (s := s.accept _) h₀ h₁).trans (by simp)
  · have hfirst : (written 0x80 (Config.cr0Code mode) r₀
        ((s.accept (.init tc mode avg)).setSeq 0)).chip = u₁.chip := by
      rw [hchip₁]
      exact written_chip_congr (b := b₀) h₀ h₀ rfl rfl
    have hsecond : ((written 0x80 (Config.cr0Code mode) r₀
        ((s.accept (.init tc mode avg)).setSeq 0)).setSeq 1).replyAt 0 = .ok r₁ b₁ := by
      rw [setSeq_replyAt, written_replyAt]
      exact h₁
    rw [hchip₂]
    exact written_chip_congr (replyAt_of_listed (by rw [hreplies₁]; rfl)) hsecond hfar₁.symm hfirst

end Sys2Proof.Machine

/-! PROOFS. Construction: INIT with both writes good, INIT with a failing write, and the defaults of its
operands (R85, R100 to R103). -/

namespace Sys2Proof.Machine

/-! ## A failed write frame -/

/-- The state after a write frame whose `XW` failed with `e` (R112, R164). -/
def writeFailed (a v : Byte) (e : XErr) (s : State) : State :=
  (((writeReady a v s).callXw [a, v]).2.noteFailure e .addr).release

section WriteFailed

variable (a v : Byte) (e : XErr) (s : State)

@[simp] theorem writeFailed_cs : (writeFailed a v e s).cs = .inactive := rfl
@[simp] theorem writeFailed_cfgd : (writeFailed a v e s).cfgd = s.cfgd := rfl
@[simp] theorem writeFailed_cfg : (writeFailed a v e s).cfg = s.cfg := rfl
@[simp] theorem writeFailed_inbox : (writeFailed a v e s).inbox = s.inbox := rfl
@[simp] theorem writeFailed_far : (writeFailed a v e s).far = s.far := rfl
@[simp] theorem writeFailed_responses : (writeFailed a v e s).responses = s.responses := rfl
@[simp] theorem writeFailed_fph : (writeFailed a v e s).work.fph = .addr := rfl
@[simp] theorem writeFailed_xerr : (writeFailed a v e s).work.xerr = e := rfl

variable {a v e s}

theorem wframe_eq_writeFailed (h : s.replyAt 0 = .fail e) :
    wframe a v s = (.fail, writeFailed a v e s) := wframe_fail a v s e h

theorem writeFailed_events (h : s.replyAt 0 = .fail e) :
    (writeFailed a v e s).events =
      s.events ++ [.cs .active, .xw [a, v] (.fail e), .cs .inactive] := by
  simp [writeFailed, release_eq, writeReady, h, writeAnswer]

end WriteFailed

/-! ## INIT with both writes good -/

@[simp] theorem written_cs (a v : Byte) (r : XRes) (s : State) :
    (written a v r s).cs = .inactive := rfl

@[simp] theorem written_inbox (a v : Byte) (r : XRes) (s : State) :
    (written a v r s).inbox = s.inbox := rfl

/-- Settles O16: both frames are good write frames, and INIT's own end follows them. -/
theorem initConfiguresTheChip : Obligations.InitConfiguresTheChip := by
  intro tc mode avg s r₀ r₁ b₀ b₁ hidle hc h₀ h₁
  refine ⟨_, exec_init_ok tc mode avg hidle hc h₀ h₁, ?_, ?_⟩
  · simp [finishInit_eq, initWritten_events (s := s.accept _) h₀ h₁]
  · simp [finishInit_eq, initWritten]

/-! ## INIT with a failing write -/

section InitFails

variable (tc : ThermoType) (mode : ConvMode) (avg : Averaging)

/-- The state after INIT's first frame, answered OK, and its second, which failed with `e` (R103). -/
def initSecondFailed (r₀ : XRes) (e : XErr) (s : State) : State :=
  writeFailed addrWriteCr1 (cr1Value avg tc) e
    ((written addrWriteCr0 (Config.cr0Code mode) r₀ (s.setSeq 0)).setSeq 1)

variable {tc mode avg} {s : State} {e : XErr} {r₀ : XRes} {b₀ : List Byte}

/-- INIT ends with its first frame where that frame fails (R103). -/
theorem commandBody_init_first_fails (h₀ : s.replyAt 0 = .fail e) :
    commandBody (.init tc mode avg) s =
      (writeFailed addrWriteCr0 (Config.cr0Code mode) e (s.setSeq 0)).raiseXfail 0 := by
  rw [commandBody_init, wframe_eq_writeFailed (e := e) (by simpa using h₀)]
  rfl

/-- INIT ends without its own end where its second frame fails (R103). -/
theorem commandBody_init_second_fails (h₀ : s.replyAt 0 = .ok r₀ b₀) (h₁ : s.replyAt 1 = .fail e) :
    commandBody (.init tc mode avg) s = (initSecondFailed tc mode avg r₀ e s).raiseXfail 1 := by
  rw [commandBody_init, wframe_eq_written (b := b₀) (by simpa using h₀)]
  simp only [initAfterFirst]
  rw [wframe_eq_writeFailed (e := e) (by simpa using h₁)]
  rfl

/-- INIT's trace when its second write fails (R103). -/
theorem initSecondFailed_events (h₀ : s.replyAt 0 = .ok r₀ b₀) (h₁ : s.replyAt 1 = .fail e) :
    (initSecondFailed tc mode avg r₀ e s).events = s.events ++
      [.cs .active, .xw [0x80, Config.cr0Code mode] (.ok r₀), .cs .inactive,
       .cs .active, .xw [0x81, cr1Value avg tc] (.fail e), .cs .inactive] := by
  rw [initSecondFailed, writeFailed_events (by simpa using h₁), setSeq_events,
    written_events (b := b₀) (by simpa using h₀)]
  simp [addrWriteCr0, addrWriteCr1]

end InitFails

/-- Settles O17: INIT ends at the frame that fails, and a failed frame leaves `cfgd` at 0, where INIT is
admitted. -/
theorem initStopsAtTheFirstFailingFrame : Obligations.InitStopsAtTheFirstFailingFrame := by
  intro tc mode avg s e hidle hc
  have hadmitted : refusalReason (.init tc mode avg) s.cfgd = none := by
    rw [hc]
    exact (admissionByCfgd.1 tc mode avg).1
  rw [exec_admitted hidle hadmitted]
  refine ⟨fun h₀ => ?_, fun r₀ b₀ h₀ h₁ => ?_⟩
  · rw [commandBody_init_first_fails (s := s.accept _) h₀]
    refine ⟨_, rfl, ?_, ?_⟩
    · simp [raiseXfail_eq, writeFailed_events (s := (s.accept _).setSeq 0) h₀, addrWriteCr0]
    · simp [raiseXfail_eq, State.idleAsBefore, hadmitted]
  · rw [commandBody_init_second_fails (s := s.accept _) h₀ h₁]
    refine ⟨_, rfl, ?_, ?_⟩
    · simp [raiseXfail_eq, initSecondFailed_events (s := s.accept _) h₀ h₁]
    · simp [raiseXfail_eq, initSecondFailed, State.idleAsBefore, hadmitted]

/-! ## The defaults of INIT's operands -/

/-- Settles O5: the line's command takes a default for each operand that is absent, and the word of
bare INIT is the encoding of INIT K, CONT, 16. -/
theorem absentInitOperandsTakeDefaults : Obligations.AbsentInitOperandsTakeDefaults :=
  have hcommand (tc : Option ThermoType) (mode : Option ConvMode) (avg : Option Averaging) :
      (AsmLine.init tc mode avg).command =
        some (.init (tc.getD .typeK) (mode.getD .continuous) (avg.getD .samples16)) := rfl
  ⟨by rw [assemble, hcommand]; decide, rfl, rfl, rfl, hcommand⟩

end Sys2Proof.Machine

/-! PROOFS. The frame primitives: what RFRAME and WFRAME leave in the registers and on the bus, and
the two commands that hand them to the host (R111 to R115). -/

namespace Sys2Proof.Machine

/-! ## The calls of a read frame -/

section ReadFrame

variable (a : Byte) (n : Nat) (s : State)

@[simp] theorem readSent_ph : (readSent a s).ph = .data := rfl

/-- The trace of a read frame once its `XW` is made, whatever the answer (R111). -/
theorem readReady_callXw_events :
    ((readReady a s).callXw [a]).2.events =
      s.events ++ [.cs .active, .xw [a] (writeAnswer (s.replyAt 0))] := by
  simp [readReady]

variable {a n s} {r₀ : XRes} {b₀ : List Byte}

/-- The trace of a read frame once its `XR` is made, whatever the answer (R111). -/
theorem readSent_callXr_events (h₀ : s.replyAt 0 = .ok r₀ b₀) :
    ((readSent a s).callXr n).2.events = s.events ++
      [.cs .active, .xw [a] (.ok r₀), .xr n ((readSent a s).readAnswer n (s.replyAt 1))] := by
  have hsent : (readSent a s).events = s.events ++ [.cs .active, .xw [a] (.ok r₀)] := by
    rw [readSent, setPh_events, readReady_callXw_events, h₀, writeAnswer]
  simp [hsent]

/-- A good read frame leaves the bytes received in `RXBUF`, first received first (R111). -/
theorem rframe_ok_registers {r₁ : XRes} {listed : List Byte} (hn : n ≤ Config.maxLen)
    (h₀ : s.replyAt 0 = .ok r₀ b₀) (h₁ : s.replyAt 1 = .ok r₁ listed) :
    ∃ t bytes, rframe a n s = (.ok, t) ∧ bytes.length = n ∧ t.work.tx0 = a ∧
      t.work.rx.take n = bytes ∧ t.work.rx.length = Config.maxLen ∧
      t.work = { s.work with tx0 := a, rx := t.work.rx } ∧ t.ph = .rel ∧ t.cs = .inactive ∧
      t.events = s.events ++
        [.cs .active, .xw [a] (.ok r₀), .xr n (.ok bytes), .cs .inactive] := by
  have hlen := servedBytes_length (readSent a s) listed n
  refine ⟨_, _, rframe_ok a n s r₀ r₁ b₀ listed h₀ h₁, hlen, rfl, ?_, ?_, rfl, rfl, rfl, ?_⟩
  · have htake := take_rxHolding ((readSent a s).callXr n).2.tick
      ((readSent a s).servedBytes listed n)
    rwa [hlen] at htake
  · exact rxHolding_length _ _ (hlen.trans_le hn)
  · simp [release_eq, readSent_callXr_events h₀, h₁, State.readAnswer, -callXr_events]

/-- A failing `XR` leaves nothing known of `RXBUF` but its size (R111, R164). -/
theorem rframe_data_fail_registers {e : XErr}
    (h₀ : s.replyAt 0 = .ok r₀ b₀) (h₁ : s.replyAt 1 = .fail e) :
    ∃ t, rframe a n s = (.fail, t) ∧ t.work.rx.length = Config.maxLen ∧
      t.work = { s.work with
        tx0 := a, rx := t.work.rx, err := true, xerr := e, fph := .data } ∧
      t.ph = .rel ∧ t.cs = .inactive ∧
      t.events = s.events ++
        [.cs .active, .xw [a] (.ok r₀), .xr n (.fail e), .cs .inactive] := by
  refine ⟨_, rframe_data_fail a n s r₀ b₀ e h₀ h₁, ?_, rfl, rfl, rfl, ?_⟩
  · exact rxHolding_length _ [] (Nat.zero_le _)
  · simp [release_eq, readSent_callXr_events h₀, h₁, State.readAnswer, -callXr_events]

/-- A failing `XW` leaves `RXBUF` as it was (R111, R164). -/
theorem rframe_addr_fail_registers {e : XErr} (h₀ : s.replyAt 0 = .fail e) :
    ∃ t, rframe a n s = (.fail, t) ∧
      t.work = { s.work with tx0 := a, err := true, xerr := e, fph := .addr } ∧
      t.ph = .rel ∧ t.cs = .inactive ∧
      t.events = s.events ++ [.cs .active, .xw [a] (.fail e), .cs .inactive] := by
  refine ⟨_, rframe_addr_fail a n s e h₀, rfl, rfl, rfl, ?_⟩
  simp [release_eq, readReady_callXw_events, h₀, writeAnswer, -callXw_events]

end ReadFrame

/-- Settles O27: one path of RFRAME for each reply that ends it. -/
theorem readFrameRegisters : Obligations.ReadFrameRegisters := by
  intro a n s hn
  exact ⟨fun _ _ _ _ => rframe_ok_registers hn, fun _ _ _ => rframe_data_fail_registers,
    fun _ => rframe_addr_fail_registers⟩

/-! ## The write frame -/

/-- Settles O28: the one call of WFRAME is answered OK or fails. -/
theorem writeFrameRegisters : Obligations.WriteFrameRegisters := by
  intro a v s
  refine ⟨fun r b h => ?_, fun e h => ?_⟩
  · exact ⟨written a v r s, wframe_eq_written h, rfl, rfl, rfl, written_events h⟩
  · exact ⟨writeFailed a v e s, wframe_eq_writeFailed h, rfl, rfl, rfl, writeFailed_events h⟩

/-! ## RDREGS and WRREG -/

/-- Settles O18: the read frame is good, and the command's end delivers what `RXBUF` holds. -/
theorem rdregsReturnsTheRegisters : Obligations.RdregsReturnsTheRegisters := by
  intro addr len s r₀ r₁ b₀ listed hidle hc ha hlo hhi h₀ h₁
  have hr : refusalReason (.rdregs addr len) s.cfgd = none :=
    refusalReason_eq_none.2 ⟨by simp [Instr.wellFormed, ha, hlo, hhi], hc⟩
  obtain ⟨t, bytes, he, hbytes, hrx, hn, hev, hresp, hcs, hcfgd, hcfg, hinbox, hfar⟩ :=
    read_body_ok (.rdregs addr len) addr len.toNat State.finishData s r₀ r₁ b₀ listed rfl hidle hr
      h₀ h₁ (by simp [inRaddr, ha])
  have ⟨hlen, _⟩ := hbytes
  refine ⟨t.finishData, bytes, he, hbytes, hev, ?_, hcs, rfl, hcfgd, hcfg, hinbox, hfar⟩
  rw [finishData_eq, respond_responses, hresp, hrx, hn, ← hlen, take_rxHolding]

/-- Settles O19: the write frame is good, and the command's end delivers `wres`. -/
theorem wrregSendsAddressAndValue : Obligations.WrregSendsAddressAndValue := by
  intro addr val s r₀ b₀ hidle hc hlo hhi h₀
  rw [exec_wrreg val hidle hc (inWaddr_of_bounds hlo hhi),
    commandBody_wrreg_ok (s := s.accept _) h₀]
  exact ⟨_, rfl, written_events (s := s.accept _) h₀, rfl, rfl, rfl, rfl, rfl, rfl, rfl⟩

end Sys2Proof.Machine

/-! PROOFS. Transport calls that never return: the command stops in the phase that made the call,
and the block has no step from there (R118, R173). -/

namespace Sys2Proof.Machine

/-- From a call that never returns `step` answers a fault or a refusal, whatever came before
(R118). -/
theorem step_ne_next_of_waiting {t : State} (hbusy : t.ph ≠ .idle) (hw : t.waiting = true)
    (u : State) : step t ≠ .next u := by
  unfold step
  split_ifs <;> simp

/-! ## Read frames -/

theorem isInit_of_frameOf_read {i : Instr} {q : Fin 2} {a : Byte} {n : Nat}
    (hf : frameOf i q = .read a n) : isInit i = false := by
  refine isInit_eq_false fun tc mode avg hi => ?_
  subst hi
  simp only [frameOf] at hf
  split at hf <;> cases hf

/-- A reading command is stopped by a frame that hangs, and left as the frame leaves it (R118). -/
theorem exec_read_hang {i : Instr} {a : Byte} {n : Nat} {s t : State} (hidle : s.ph = .idle)
    (hr : refusalReason i s.cfgd = none) (hf : frameOf i 0 = .read a n)
    (h : rframe a n ((s.accept i).setN n) = (.hang, t)) : exec i s = .next t := by
  rw [exec_admitted hidle hr, commandBody_of_not_init (isInit_of_frameOf_read hf), hf, runFrame, h,
    endCommand]

/-- Settles O25: the frame hangs in its `XW` or in its `XR`. -/
theorem hungCallLeavesNoStep : Obligations.HungCallLeavesNoStep := by
  intro i a n s hidle hr hf
  refine ⟨fun h₀ => ?_, fun r₀ b₀ h₀ h₁ => ?_⟩
  · refine ⟨_, exec_read_hang hidle hr hf (rframe_addr_hang a n _ h₀), rfl, rfl, rfl, ?_, ?_⟩
    · have hev := readReady_callXw_events a ((s.accept i).setN n)
      rwa [show ((s.accept i).setN n).replyAt 0 = .never from h₀] at hev
    · exact step_ne_next_of_waiting (by simp [readReady])
        (by simp [h₀, writeAnswer, CallResult.isPending])
  · refine ⟨_, exec_read_hang hidle hr hf (rframe_data_hang a n _ r₀ b₀ h₀ h₁), rfl, rfl, rfl,
      ?_, ?_⟩
    · have hev := readSent_callXr_events (a := a) (n := n) (s := (s.accept i).setN n) h₀
      rwa [show ((s.accept i).setN n).replyAt 1 = .never from h₁] at hev
    · exact step_ne_next_of_waiting (by simp) (by simp [h₁, State.readAnswer, CallResult.isPending])

/-! ## Write frames -/

/-- The state in which the `XW` of a write frame never returns (R112, R118). -/
def writeHung (a v : Byte) (s : State) : State := ((writeReady a v s).callXw [a, v]).2

section WriteHung

variable {a v : Byte} {s : State}

theorem wframe_eq_writeHung (h : s.replyAt 0 = .never) :
    wframe a v s = (.hang, writeHung a v s) := wframe_hang a v s h

theorem writeHung_events (h : s.replyAt 0 = .never) :
    (writeHung a v s).events = s.events ++ [.cs .active, .xw [a, v] .pending] := by
  simp [writeHung, writeReady, h, writeAnswer]

theorem step_writeHung_ne_next (h : s.replyAt 0 = .never) (u : State) :
    step (writeHung a v s) ≠ .next u :=
  step_ne_next_of_waiting (by simp [writeHung, writeReady])
    (by simp [writeHung, h, writeAnswer, CallResult.isPending]) u

/-- A command whose first frame is a write stops in it; INIT has set `seq` before (R25, R118). -/
theorem commandBody_write_hang {i : Instr} (hf : frameOf i 0 = .write a v)
    (h : s.replyAt 0 = .never) : ∃ q, commandBody i s = writeHung a v (s.setSeq q) := by
  cases hi : isInit i with
  | false =>
    refine ⟨s.work.seq, ?_⟩
    rw [commandBody_of_not_init hi, hf, runFrame, wframe_eq_writeHung h]
    rfl
  | true =>
    obtain ⟨tc, mode, avg, rfl⟩ := eq_init_of_isInit hi
    cases hf
    refine ⟨0, ?_⟩
    rw [commandBody_init, wframe_eq_writeHung (s := s.setSeq 0) h]
    rfl

/-- INIT stops in its second frame (R100, R118). -/
theorem commandBody_init_second_hangs {tc : ThermoType} {mode : ConvMode} {avg : Averaging}
    {r₀ : XRes} {b₀ : List Byte} (h₀ : s.replyAt 0 = .ok r₀ b₀) (h₁ : s.replyAt 1 = .never) :
    commandBody (.init tc mode avg) s =
      writeHung addrWriteCr1 (cr1Value avg tc)
        ((written addrWriteCr0 (Config.cr0Code mode) r₀ (s.setSeq 0)).setSeq 1) := by
  rw [commandBody_init, wframe_eq_written (b := b₀) (by simpa using h₀)]
  simp only [initAfterFirst]
  rw [wframe_eq_writeHung (by simpa using h₁)]
  rfl

end WriteHung

/-- Settles O26: the command hangs in its first write frame, or INIT in its second. -/
theorem hungWriteLeavesNoStep : Obligations.HungWriteLeavesNoStep := by
  intro i a v s hidle hr hf
  rw [exec_admitted hidle hr]
  refine ⟨fun h₀ => ?_, fun r₀ b₀ a' v' hi hf' h₀ h₁ => ?_⟩
  · obtain ⟨q, hbody⟩ := commandBody_write_hang (s := s.accept i) hf h₀
    rw [hbody]
    exact ⟨_, rfl, rfl, rfl, rfl, rfl, rfl, writeHung_events (s := (s.accept i).setSeq q) h₀,
      step_writeHung_ne_next (s := (s.accept i).setSeq q) h₀⟩
  · obtain ⟨tc, mode, avg, rfl⟩ := eq_init_of_isInit hi
    cases hf
    cases hf'
    rw [commandBody_init_second_hangs (s := s.accept _) h₀ h₁]
    refine ⟨_, rfl, rfl, rfl, rfl, rfl, rfl, ?_, step_writeHung_ne_next (by simpa using h₁)⟩
    rw [writeHung_events (by simpa using h₁), setSeq_events,
      written_events (b := b₀) (by simpa using h₀)]
    simp

end Sys2Proof.Machine

/-! PROOFS. The chip-select calls of a disciplined history (R116). -/

namespace Sys2Proof.Machine

/-- The levels still to be driven from a place on the bus until the line is released. -/
def BusPos.levelsToRelease : BusPos → List Level
  | .outside => []
  | .selected => [.inactive]
  | .addressed => [.inactive]
  | .closing => [.inactive]
  | .hung => [.inactive]

theorem csLevels_cons (e : Event) (es : List Event) :
    csLevels (e :: es) = csLevels [e] ++ csLevels es := by
  cases e <;> rfl

/-- Outside a frame the discipline allows `CS(Active)` alone, which leaves the line to be released;
inside a frame an allowed event drives no level, or releases the line (R116). -/
theorem csLevels_of_next {p q : BusPos} {e : Event} (h : p.next e = some q) :
    (p = .outside ∧ csLevels [e] = [.active] ∧ q.levelsToRelease = [.inactive]) ∨
      p.levelsToRelease = csLevels [e] ++ q.levelsToRelease := by
  unfold BusPos.next at h
  split at h
  · cases h
    exact .inl ⟨rfl, rfl, rfl⟩
  all_goals right
  · split at h
    · split at h <;> cases h <;> rfl
    · cases h
  · split at h
    · split at h <;> cases h <;> rfl
    · cases h
  · split at h
    · split at h <;> cases h
      rfl
    · cases h
      rfl
    · cases h
      rfl
  · cases h
    rfl
  · cases h

/-- A disciplined history that ends outside a frame first releases the line, if it starts inside
one, and then drives it active and inactive in turn. -/
theorem csLevels_of_busAfter {es : List Event} {p : BusPos}
    (h : busAfter (some p) es = some .outside) :
    ∃ k, csLevels es = p.levelsToRelease ++
      (List.replicate k [Level.active, Level.inactive]).flatten := by
  induction es generalizing p with
  | nil => cases h; exact ⟨0, rfl⟩
  | cons e es ih =>
    rw [busAfter_cons] at h
    cases hq : p.next e with
    | none => simp [hq] at h
    | some q =>
      rw [hq] at h
      obtain ⟨k, hk⟩ := ih h
      rw [csLevels_cons, hk]
      obtain ⟨rfl, hactive, hrelease⟩ | hsame := csLevels_of_next hq
      · exact ⟨k + 1, by rw [hactive, hrelease, List.replicate_succ]; rfl⟩
      · exact ⟨k, by rw [hsame, List.append_assoc]⟩

/-- Settles O44: between commands the invariant's history is outside a frame. -/
theorem chipSelectAlternates : Obligations.ChipSelectAlternates := by
  intro s hinv hidle
  have hbus : busAfter (some .outside) s.events = some .outside := by
    rw [hinv.bus, State.busPos, hidle]
  exact csLevels_of_busAfter hbus

end Sys2Proof.Machine

/-! PROOFS. The three queries when the transport answers both calls (R130 to R132). -/

namespace Sys2Proof.Machine

section Query

variable {i : Instr} {a : Byte} {n : Nat} {s : State} {r₀ r₁ : XRes} {c₀ listed : List Byte}
  (hbody : commandBody i = readCommand a n (finishCommand i)) (hi : isInit i = false)
  (hwf : i.wellFormed = true) (ha : inRaddr a = true) (hidle : s.ph = .idle)
  (hc : s.cfgd = true) (h₀ : s.replyAt 0 = .ok r₀ c₀) (h₁ : s.replyAt 1 = .ok r₁ listed)

include hbody hi hwf ha hidle hc h₀ h₁

/-- A reading command whose two calls are answered OK comes to its own end with the bytes received in
`RXBUF`; that end adds nothing to the trace and leaves the block between commands (R111, R120). -/
theorem exec_read_finishes : ∃ t k bytes, exec i s = .next (finishCommand i t) ∧
    s.readDelivers a n listed bytes ∧ t.work.rx = rxHolding k bytes ∧ t.work.n = n ∧
    t.responses = s.responses ∧
    (finishCommand i t).events = s.events ++
      [.cs .active, .xw [a] (.ok r₀), .xr n (.ok bytes), .cs .inactive] ∧
    s.idleAsBefore (finishCommand i t) := by
  have hr : refusalReason i s.cfgd = none := refusalReason_eq_none.2 ⟨hwf, by rw [hc, hi]; rfl⟩
  obtain ⟨t, bytes, he, hbytes, hrx, hn, hev, hresp, hcs, hcfgd, hcfg, hinbox, hfar⟩ :=
    read_body_ok i a n (finishCommand i) s r₀ r₁ c₀ listed hbody hidle hr h₀ h₁ ha
  have ⟨hcfgd', hcfg'⟩ := finishCommand_config hi t
  refine ⟨t, _, bytes, he, hbytes, hrx, hn, hresp, (finishCommand_events i t).trans hev, ?_⟩
  exact ⟨(finishCommand_cs i t).trans hcs, finishCommand_ph i t, hcfgd'.trans hcfgd,
    hcfg'.trans hcfg, (finishCommand_inbox i t).trans hinbox, (finishCommand_far i t).trans hfar⟩

/-- Where that end decodes the bytes, their value is the response (R130, R131). -/
theorem exec_read_returns_value {value : List Byte → Int}
    (hvalue : FinishesWithValue value n i) :
    ∃ t bytes v, exec i s = .next t ∧ s.readDelivers a n listed bytes ∧
      t.events = s.events ++
        [.cs .active, .xw [a] (.ok r₀), .xr n (.ok bytes), .cs .inactive] ∧
      t.responses = s.responses ++ [.ok (.val v)] ∧ v.toInt = value bytes ∧ s.idleAsBefore t := by
  obtain ⟨t, k, bytes, he, hbytes, hrx, -, hresp, hev, hafter⟩ :=
    exec_read_finishes hbody hi hwf ha hidle hc h₀ h₁
  obtain ⟨v, hv, hint⟩ := hvalue t k bytes hbytes.1 hrx
  exact ⟨_, bytes, v, he, hbytes, hev, by rw [hv, hresp], hint, hafter⟩

end Query

/-- Settles O20: RDCJ's end decodes the two bytes of its frame. -/
theorem rdcjReturnsTheColdJunction : Obligations.RdcjReturnsTheColdJunction := by
  intro s r₀ r₁ c₀ listed hidle hc h₀ h₁
  obtain ⟨t, bytes, v, he, hbytes, hrest⟩ :=
    exec_read_returns_value (i := .rdcj) (a := 0x0A) rfl rfl rfl (by decide) hidle hc h₀ h₁
      finishesWithValue_rdcj
  obtain ⟨b₀, b₁, rfl⟩ := List.length_eq_two.1 hbytes.1
  exact ⟨t, b₀, b₁, v, he, hbytes, hrest⟩

/-- Settles O21: RDTC's end decodes the three bytes of its frame. -/
theorem rdtcReturnsTheThermocouple : Obligations.RdtcReturnsTheThermocouple := by
  intro s r₀ r₁ c₀ listed hidle hc h₀ h₁
  obtain ⟨t, bytes, v, he, hbytes, hrest⟩ :=
    exec_read_returns_value (i := .rdtc) (a := 0x0C) rfl rfl rfl (by decide) hidle hc h₀ h₁
      finishesWithValue_rdtc
  obtain ⟨b₀, b₁, b₂, rfl⟩ := List.length_eq_three.1 hbytes.1
  exact ⟨t, b₀, b₁, b₂, v, he, hbytes, hrest⟩

/-- Settles O22: RDFLT's end delivers the first `n` entries of `RXBUF`, the one byte of its frame. -/
theorem rdfltReturnsTheFaultByte : Obligations.RdfltReturnsTheFaultByte := by
  intro s r₀ r₁ c₀ listed hidle hc h₀ h₁
  obtain ⟨t, k, bytes, he, hbytes, hrx, hn, hresp, hev, hafter⟩ :=
    exec_read_finishes (i := .rdflt) (a := 0x0F) rfl rfl rfl (by decide) hidle hc h₀ h₁
  obtain ⟨f, rfl⟩ := List.length_eq_one_iff.1 hbytes.1
  refine ⟨_, f, he, hbytes, hev, ?_, hafter⟩
  have htake : t.work.rx.take t.work.n = [f] := by
    rw [hrx, hn]
    exact take_rxHolding k [f]
  show t.finishData.responses = _
  rw [finishData_eq, respond_responses, htake, hresp]

end Sys2Proof.Machine

/-! PROOFS. The equivalent forms of the decode: registers, wiring, closed forms, bounds, rounding
and the temperature (R140 to R151). -/

namespace Sys2Proof.Machine

/-- Settles O51: `DEC_CJ` names the same sign bit, and its `ACC` is the masked container. -/
theorem coldJunctionIsTheGeneralDecode : Obligations.ColdJunctionIsTheGeneralDecode :=
  fun b₀ b₁ => ⟨decCj_int b₀ b₁, decCj_acc b₀ b₁, rfl⟩

/-- Settles O52: `DEC_TC` names the same sign bit, and its `ACC` is the masked container. -/
theorem thermocoupleIsTheGeneralDecode : Obligations.ThermocoupleIsTheGeneralDecode :=
  fun b₀ b₁ b₂ => ⟨decTc_int b₀ b₁ b₂, decTc_acc b₀ b₁ b₂, rfl⟩

/-- Settles O53: the sign bit left in weighs `2^(W-1)`, which the signed reading turns around. -/
theorem decodeIsSignExtension : Obligations.DecodeIsSignExtension :=
  fun _ _ hw hle _ => dec_eq_signedOf hw hle

/-! ## The decode as wiring -/

/-- Joining a byte below a bit vector is one step of the container. -/
theorem toNat_append_byte {n : Nat} (x : BitVec n) (b : Byte) :
    (x ++ b).toNat = x.toNat * 256 + b.toNat := by
  rw [BitVec.toNat_append, ← Nat.shiftLeft_add_eq_or_of_lt b.isLt, Nat.shiftLeft_eq]

theorem toInt_eq_signedOf {w : Nat} (hw : 1 ≤ w) (x : BitVec w) :
    x.toInt = signedOf w x.toNat := by
  have hpow : 2 ^ w = 2 * 2 ^ (w - 1) := by rw [← pow_succ', Nat.sub_add_cancel hw]
  rw [signedOf_eq_ite hw, BitVec.toInt_eq_toNat_cond, hpow]
  have hhalf : 2 * x.toNat < 2 * 2 ^ (w - 1) ↔ ¬ (2 : Int) ^ (w - 1) ≤ x.toNat := by
    rw [not_le]
    norm_cast
    omega
  simp only [hhalf, ite_not]
  push_cast
  rfl

theorem decCjWired_toNat (b₀ b₁ : Byte) :
    (decCjWired b₀ b₁).toNat = b₀.toNat * 64 + b₁.toNat / 4 := by
  have := b₀.isLt; have := b₁.isLt
  rw [decCjWired, BitVec.extractLsb'_toNat, toNat_append_byte, Nat.shiftRight_eq_div_pow]
  omega

theorem decTcWired_toNat (b₀ b₁ b₂ : Byte) :
    (decTcWired b₀ b₁ b₂).toNat = b₀.toNat * 2048 + b₁.toNat * 8 + b₂.toNat / 32 := by
  have := b₀.isLt; have := b₁.isLt; have := b₂.isLt
  rw [decTcWired, BitVec.extractLsb'_toNat, toNat_append_byte, toNat_append_byte,
    Nat.shiftRight_eq_div_pow]
  omega

/-- Settles O54: the wires carry the number whose signed reading the decoder answers. -/
theorem decodersAreWiring : Obligations.DecodersAreWiring := by
  constructor
  · intro b₀ b₁
    rw [decCj_eq_signedOf, toInt_eq_signedOf (by decide), decCjWired_toNat]
  · intro b₀ b₁ b₂
    rw [decTc_eq_signedOf, toInt_eq_signedOf (by decide), decTcWired_toNat]

/-! ## Bounds and rounding -/

theorem topBits_lt {w : Nat} {bytes : List Byte} (hle : w ≤ 8 * bytes.length) :
    container bytes >>> (8 * bytes.length - w) < 2 ^ w := by
  rw [Nat.shiftRight_eq_div_pow]
  apply Nat.div_lt_of_lt_mul
  rw [← pow_add, Nat.sub_add_cancel hle, pow_mul]
  exact container_lt bytes

/-- Settles O56: the magnitude's bounds are `dec_main`'s, the result's those of a signed reading. -/
theorem decodeNeverOverflows : Obligations.DecodeNeverOverflows := by
  intro w bytes hw hle _
  obtain ⟨hacc, hmag, -⟩ := dec_main w bytes hw hle
  obtain ⟨hlo, hhi⟩ := signedOf_bounds hw (topBits_lt hle)
  rw [← dec_eq_signedOf hw hle] at hlo hhi
  exact ⟨hacc, hmag, hlo, Int.le_sub_one_of_lt hhi⟩

/-- Dropping the low `p` bits of a number divides its signed reading, rounding toward minus
infinity: the sign bit stays the top bit, and its weight is a multiple of `2^p`. -/
theorem signedOf_shiftRight {w : Nat} (hw : 1 ≤ w) (p a : Nat) :
    signedOf w (a >>> p) = signedOf (w + p) a / 2 ^ p := by
  have hsign : 2 ^ (w + p - 1) = 2 ^ (w - 1) * 2 ^ p := by rw [← pow_add]; congr 1; omega
  simp only [signedOf, hsign, Nat.shiftRight_eq_div_pow, Nat.le_div_iff_mul_le (Nat.two_pow_pos p),
    pow_add]
  split
  · rw [Int.sub_mul_ediv_right _ _ (by positivity)]
    push_cast
    rfl
  · push_cast
    rfl

theorem dec_eq_floor {w : Nat} {bytes : List Byte} (hw : 1 ≤ w) (hle : w ≤ 8 * bytes.length) :
    dec w bytes =
      signedOf (8 * bytes.length) (container bytes) / 2 ^ (8 * bytes.length - w) := by
  rw [dec_eq_signedOf hw hle, signedOf_shiftRight hw, Nat.add_sub_cancel' hle]

/-- Settles O58: a floored division is monotone. -/
theorem decodeIsFloorAndMonotone : Obligations.DecodeIsFloorAndMonotone := by
  refine ⟨fun _ _ hw hle _ => dec_eq_floor hw hle, ?_⟩
  intro w bytes bytes' hlen hw hle _ hsample
  rw [dec_eq_floor hw hle, dec_eq_floor hw (hlen ▸ hle), ← hlen]
  rw [← hlen] at hsample
  exact Int.ediv_le_ediv (by positivity) hsample

/-! ## Temperatures -/

theorem celsius_signedOf (f w a : Nat) :
    celsius f (signedOf w a) = ((a : Rat) - if 2 ^ (w - 1) ≤ a then 2 ^ w else 0) / 2 ^ f := by
  rw [celsius, signedOf]
  split <;> simp

/-- Settles O55: both decodes are signed readings of the container above its padding. -/
theorem closedFormsInDegrees : Obligations.ClosedFormsInDegrees := by
  constructor
  · intro b₀ b₁
    rw [decCj_int, dec_eq_signedOf (by decide) (by simp), celsius_signedOf]
    norm_num
  · intro b₀ b₁ b₂
    rw [decTc_int, dec_eq_signedOf (by decide) (by simp), celsius_signedOf]
    norm_num

/-- Settles O59: the whole degrees and the fraction field are quotient and remainder by `2^F`. -/
theorem temperatureSplitsIntoWholeAndFraction :
    Obligations.TemperatureSplitsIntoWholeAndFraction := by
  intro f i
  have hpos : (0 : Int) < 2 ^ f := by positivity
  have hsplit : i = wholeDegrees f i * 2 ^ f + fractionField f i := by
    rw [wholeDegrees, fractionField, Int.shiftRight_eq_div_pow]
    exact_mod_cast (Int.ediv_mul_add_emod i (2 ^ f)).symm
  refine ⟨?_, Int.emod_nonneg i hpos.ne', Int.emod_lt_of_pos i hpos⟩
  have hsplit' : (i : Rat) = wholeDegrees f i * 2 ^ f + fractionField f i := mod_cast hsplit
  rw [celsius, hsplit', add_div, mul_div_cancel_right₀ _ (by positivity)]

/-- Settles O60: the three samples decode to 25 * 64, -128 * 64 and 400 * 128. -/
theorem documentSamplesDecode : Obligations.DocumentSamplesDecode := by
  have h25 : (decCj 0x19 0x00).int = 25 * 64 := by decide
  have hmin : (decCj 0x80 0x00).int = -128 * 64 := by decide
  have h400 : (decTc 0x19 0x00 0x00).int = 400 * 128 := by decide
  rw [Obligations.DocumentSamplesDecode, h25, hmin, h400]
  norm_num [celsius]

end Sys2Proof.Machine

/-! PROOFS. XFAIL in the first frame of a command (R160, R161, R164, R165), the command port of a busy
block (R163, R175, R187), and the history under every step (R11, R176). -/

namespace Sys2Proof.Machine

/-! ## A first frame that fails -/

/-- From `s` the block came to `t` by a command that ended XFAIL: it made the events `trace`, delivered
the cause `c`, and is between commands with the kept registers as they were (R161, R165). -/
def State.endsXfail (s : State) (trace : List Event) (c : Cause) (t : State) : Prop :=
  t.events = s.events ++ trace ∧ t.responses = s.responses ++ [.xfail c] ∧ s.idleAsBefore t

/-- A frame whose `XW` fails makes no `XR` and releases the line (R111, R112, R164). -/
theorem runFrame_addr_fails (f : Frame) {s : State} {e : XErr} (h : s.replyAt 0 = .fail e) :
    ∃ t, runFrame f s = (.fail, t) ∧
      s.endsXfail [.cs .active, .xw f.sent (.fail e), .cs .inactive]
        { frame := 0, phase := .addr, xerr := e } (t.raiseXfail 0) := by
  cases f with
  | read a n =>
    obtain ⟨t, ht, -, -, -, hev⟩ :=
      rframe_addr_fail_registers (a := a) (n := n) (s := s.setN n) h
    cases (rframe_addr_fail a n (s.setN n) e h).symm.trans ht
    exact ⟨_, ht, hev, rfl, rfl, rfl, rfl, rfl, rfl, rfl⟩
  | write a v =>
    exact ⟨writeFailed a v e s, wframe_eq_writeFailed h, writeFailed_events h,
      rfl, rfl, rfl, rfl, rfl, rfl, rfl⟩

/-- A read frame whose `XR` fails releases the line after it (R111, R164). -/
theorem runFrame_data_fails (a : Byte) (n : Nat) {s : State} {r₀ : XRes} {b₀ : List Byte} {e : XErr}
    (h₀ : s.replyAt 0 = .ok r₀ b₀) (h₁ : s.replyAt 1 = .fail e) :
    ∃ t, runFrame (.read a n) s = (.fail, t) ∧
      s.endsXfail [.cs .active, .xw [a] (.ok r₀), .xr n (.fail e), .cs .inactive]
        { frame := 0, phase := .data, xerr := e } (t.raiseXfail 0) := by
  obtain ⟨t, ht, -, -, -, -, hev⟩ :=
    rframe_data_fail_registers (a := a) (n := n) (s := s.setN n) h₀ h₁
  cases (rframe_data_fail a n (s.setN n) r₀ b₀ e h₀ h₁).symm.trans ht
  exact ⟨_, ht, hev, rfl, rfl, rfl, rfl, rfl, rfl, rfl⟩

/-- Every command ends with its first frame where that frame fails; INIT has set `seq` before it
(R25, R103, R164). -/
theorem commandBody_first_frame_fails (i : Instr) (s : State) :
    ∃ q, ∀ t, runFrame (frameOf i 0) (s.setSeq q) = (.fail, t) →
      commandBody i s = t.raiseXfail 0 := by
  cases hi : isInit i with
  | false =>
    refine ⟨s.work.seq, fun t ht => ?_⟩
    have hframe : runFrame (frameOf i 0) s = (.fail, t) := ht
    rw [commandBody_of_not_init hi, hframe, endCommand]
  | true =>
    obtain ⟨tc, mode, avg, rfl⟩ := eq_init_of_isInit hi
    refine ⟨0, fun t ht => ?_⟩
    have hframe : wframe addrWriteCr0 (Config.cr0Code mode) (s.setSeq 0) = (.fail, t) := ht
    rw [commandBody_init, hframe, initAfterFirst]

/-- Settles O23: the first frame fails in its `XW`, and the command ends with it. -/
theorem failedAddressWriteReleasesAndReports :
    Obligations.FailedAddressWriteReleasesAndReports := by
  intro i s e hidle hr h₀
  obtain ⟨q, hbody⟩ := commandBody_first_frame_fails i (s.accept i)
  obtain ⟨t, ht, hev, hresp, hafter⟩ :=
    runFrame_addr_fails (frameOf i 0) (s := (s.accept i).setSeq q) h₀
  rw [exec_admitted hidle hr, hbody t ht]
  exact ⟨_, rfl, fun a n hf => by rwa [hf] at hev, fun a v hf => by rwa [hf] at hev, hresp, hafter⟩

/-- Settles O24: the command's one frame fails in its `XR`, and the command ends with it. -/
theorem failedReadReleasesAndReports : Obligations.FailedReadReleasesAndReports := by
  intro i a n s r₀ b₀ e hidle hr hf h₀ h₁
  obtain ⟨q, hbody⟩ := commandBody_first_frame_fails i (s.accept i)
  obtain ⟨t, ht, hend⟩ := runFrame_data_fails a n (s := (s.accept i).setSeq q) h₀ h₁
  rw [exec_admitted hidle hr, hbody t (by rw [hf, ht])]
  exact ⟨_, rfl, hend⟩

/-! ## The command port of a busy block -/

theorem exec_busy (i : Instr) {s : State} (hbusy : s.ph ≠ .idle) :
    exec i s = .refused .commandWhileBusy := by
  rw [exec_eq_command]
  exact command_busy i s _ hbusy

/-- A busy block's step is a row of R120, which leaves the command port alone (R187). -/
theorem step_busy_inbox {s t : State} (hbusy : s.ph ≠ .idle) (h : step s = .next t) :
    t.inbox = s.inbox := by
  obtain ⟨hidle, -⟩ | ⟨w, rest, r, hidle, -⟩ | ⟨w, rest, i, hidle, -⟩ | ⟨i, -, -, -, rfl⟩ :=
    step_cases h
  · exact absurd hidle hbusy
  · exact absurd hidle hbusy
  · exact absurd hidle hbusy
  · obtain ⟨hinbox, -⟩ := advance_ports i s
    exact hinbox

/-- Settles O14. -/
theorem onlyAnIdleBlockTakesACommand : Obligations.OnlyAnIdleBlockTakesACommand :=
  ⟨fun _ _ => step_busy_inbox, fun i _ => exec_busy i,
    fun _ => step_idle_of_nothing_offered⟩

/-! ## The history only grows -/

/-- The history of `t` is that of `s`, extended (R11, R176). -/
def State.historyGrows (s t : State) : Prop :=
  s.events <+: t.events ∧ s.responses <+: t.responses

namespace State.historyGrows

theorem trans {s t u : State} (h : s.historyGrows t) (h' : t.historyGrows u) :
    s.historyGrows u :=
  ⟨h.1.trans h'.1, h.2.trans h'.2⟩

theorem of_eq_append {s t : State} {es : List Event} {rs : List Response}
    (he : t.events = s.events ++ es) (hr : t.responses = s.responses ++ rs) : s.historyGrows t :=
  ⟨⟨es, he.symm⟩, ⟨rs, hr.symm⟩⟩

theorem refl (s : State) : s.historyGrows s :=
  of_eq_append (List.append_nil _).symm (List.append_nil _).symm

end State.historyGrows

theorem refuse_historyGrows (s : State) (r : Reason) : s.historyGrows (s.refuse r) :=
  .of_eq_append (List.append_nil _).symm rfl

theorem begin_historyGrows (i : Instr) (s : State) : s.historyGrows (s.begin i) := by
  cases i <;> exact .refl s

@[simp] theorem called_responses (f : Frame) (s : State) :
    (f.called s).responses = s.responses := by cases f <;> rfl

@[simp] theorem answered_responses (f : Frame) (r : CallResult XRes) (s : State) :
    (f.answered r s).responses = s.responses := by cases r <;> cases f <;> rfl

@[simp] theorem readAnswered_responses (r : CallResult (List Byte)) (s : State) :
    (readAnswered r s).responses = s.responses := by cases r <;> rfl

/-- A row of R120 adds the event of its call, and the row of REL also the response it delivers. -/
theorem advance_historyGrows (i : Instr) (s : State) : s.historyGrows (advance i s) := by
  obtain he | he | ⟨r, he⟩ | ⟨r, he⟩ | ⟨q, he⟩ | he | he := advance_cases i s <;> rw [he]
  · exact .refl s
  · exact .of_eq_append rfl (List.append_nil _).symm
  · exact .of_eq_append ((answered_events _ _ _).trans (called_events _ s)) (rs := []) (by simp)
  · exact .of_eq_append ((readAnswered_events _ _).trans (callXr_events s _)) (rs := []) (by simp)
  · exact .of_eq_append rfl rfl
  · exact .of_eq_append rfl (List.append_nil _).symm
  · obtain ⟨v, hv⟩ := finishCommand_responses i (s.driveCs .inactive)
    exact .of_eq_append (finishCommand_events i _) hv

/-- A refusal adds a response, and an admitted command what its rows add. -/
theorem exec_historyGrows {i : Instr} {s t : State} (he : exec i s = .next t) :
    s.historyGrows t :=
  exec_induct (P := s.historyGrows) he (refuse_historyGrows s) (begin_historyGrows i s)
    fun u hu => hu.trans (advance_historyGrows i u)

/-- Taking a word off the command port leaves the history alone. -/
theorem step_historyGrows {s t : State} (h : step s = .next t) : s.historyGrows t := by
  obtain ⟨-, rfl⟩ | ⟨w, rest, r, -, -, -, rfl⟩ | ⟨w, rest, i, -, -, -, he⟩ | ⟨i, -, -, -, rfl⟩ :=
    step_cases h
  · exact .refl t
  · exact refuse_historyGrows { s with inbox := rest } r
  · have hgrows : ({ s with inbox := rest } : State).historyGrows t := exec_historyGrows he
    exact hgrows
  · exact advance_historyGrows i s

/-- Settles O47: a failure recorded stays in the longer list of responses. -/
theorem historyOnlyGrows : Obligations.HistoryOnlyGrows := by
  intro s t h
  obtain ⟨hevents, hresponses⟩ := step_historyGrows h
  refine ⟨hevents, hresponses, fun hfail => ?_⟩
  obtain ⟨r, hr, hx⟩ := List.any_eq_true.1 hfail
  exact List.any_eq_true.2 ⟨r, hresponses.subset hr, hx⟩

end Sys2Proof.Machine
